-- ==== Sys2Proof/Word.lean ====
section
/-! DEFINITION. The word types of KOMM-CORE: the 64-bit port and register word (10_state.md R52, 20_memory.md R111),
the 8-bit lane of the bus bridge (20_memory.md R112) and the number of a general register (30_encoding.md R151). -/

namespace Sys2Proof

/-- A 64-bit word: a general register, a bank row, a port word. Bit `i` has weight `2^i` (20_memory.md R112). -/
abbrev Word := BitVec 64

/-- A byte lane of a byte-addressed bus (20_memory.md R112). Inside the core there are no bytes. -/
abbrev Byte := BitVec 8

/-- The number of a general register, G0 to G7 (30_encoding.md R151: an unsigned 3-bit number). -/
abbrev Reg := Fin 8

end Sys2Proof
end

