-- ==== Sys2Proof/Machine/Poly.lean ====
section
/-! DEFINITION. Polynomials over GF(2) as unbounded natural numbers, bit i the coefficient of X^i (00_scope.md R11, R12):
degree, carry-less product, division, extended Euclid and powers (00_scope.md R14, 40_ring.md R210, R220, R230, R240).
A loop of the spec that ends by a decreasing degree is a recursion on fuel that is never used up (DEDUCED, log 10; safe). -/

namespace Sys2Proof.Machine

/-- deg(a): the index of the highest set bit, -1 for 0 (00_scope.md R14). -/
def deg (a : Nat) : Int := if a = 0 then -1 else (Nat.log2 a : Int)

/-- The loop of `clmul` over i in [0, n): the XOR of `a << i` over every i < n with b[i] = 1 (40_ring.md R210). -/
def clmulUpTo (a b : Nat) : Nat → Nat
  | 0 => 0
  | i + 1 => if b.testBit i then clmulUpTo a b i ^^^ (a <<< i) else clmulUpTo a b i

/-- clmul(a, b), the carry-less product (40_ring.md R210). `b` is below 2^64. -/
def clmul (a b : Nat) : Nat := clmulUpTo a b 64

/-- The loop of `pdivmod` from quotient `q` and remainder `r` (40_ring.md R220), at most `fuel` turns. -/
def pdivmodLoop (b : Nat) : Nat → Nat → Nat → Nat × Nat
  | 0, q, r => (q, r)
  | fuel + 1, q, r =>
    if deg b ≤ deg r then
      let d := (deg r - deg b).toNat
      pdivmodLoop b fuel (q ||| (1 <<< d)) (r ^^^ (b <<< d))
    else (q, r)

/-- pdivmod(a, b) = (quot, rem) for b ≠ 0 (40_ring.md R220). The remainder's degree strictly decreases, so deg(a) + 1
turns are enough. The core never asks for b = 0 (R221; log 24). -/
def pdivmod (a b : Nat) : Nat × Nat := pdivmodLoop b (Nat.log2 a + 1) 0 a

/-- `egcd` with at most `fuel` calls (40_ring.md R230). -/
def egcdRec : Nat → Nat → Nat → Nat × Nat × Nat
  | 0, _, y => (y, 0, 1)
  | fuel + 1, x, y =>
    if x = 0 then (y, 0, 1)
    else
      let qr := pdivmod y x
      let dst := egcdRec fuel qr.2 x
      (dst.1, dst.2.2 ^^^ clmul dst.2.1 qr.1, dst.2.1)

/-- egcd(x, y) = (d, s, t) (40_ring.md R230). The first argument's degree strictly decreases, so deg(x) + 2 calls are
enough. -/
def egcd (x y : Nat) : Nat × Nat × Nat := egcdRec (Nat.log2 x + 2) x y

/-- `pow_sq` with at most `fuel` calls (40_ring.md R240). -/
def powSqRec (mul : Nat → Nat → Nat) (one : Nat) : Nat → Nat → Nat → Nat
  | 0, _, _ => one
  | fuel + 1, x, n =>
    if n = 0 then one
    else if n = 1 then x
    else if n % 2 = 0 then powSqRec mul one fuel (mul x x) (n / 2)
    else mul x (powSqRec mul one fuel (mul x x) ((n - 1) / 2))

/-- pow_sq(mul, one, x, n), exponentiation by squaring (40_ring.md R240). The exponent halves, so log2(n) + 1 calls are
enough. -/
def powSq (mul : Nat → Nat → Nat) (one x n : Nat) : Nat := powSqRec mul one (Nat.log2 n + 1) x n

end Sys2Proof.Machine
end

