-- ==== Sys2Proof/Machine/FieldMath.lean ====
section
/-! DEFINITION. The functions of the extension field on natural numbers, for a modulus `m` (41_field.md R260, R265, R270,
R280, R285, R291, R300), and the default modulus table (10_state.md R65). -/

namespace Sys2Proof.Machine

/-- DEFAULT[k] for k = 1 to 16 (10_state.md R65); 0 for any other k, which FCFG.D never asks for. -/
def defaultModulus (k : Nat) : Nat :=
  match k with
  | 1 => 0b11
  | 2 => 0b111
  | 3 => 0b1011
  | 4 => 0b10011
  | 5 => 0b100101
  | 6 => 0b1000011
  | 7 => 0b10001001
  | 8 => 0b100011101
  | 9 => 0b1000010001
  | 10 => 0b10000001001
  | 11 => 0b100000000101
  | 12 => 0b1000001010011
  | 13 => 0b10000000011011
  | 14 => 0b100010001000011
  | 15 => 0b1000000000000011
  | 16 => 0b10001000000001011
  | _ => 0

/-- fmul(a, b) = pdivmod(clmul(a, b), m).rem (41_field.md R260). -/
def fmul (m a b : Nat) : Nat := (pdivmod (clmul a b) m).2

/-- finv(a): the Bezout coefficient s of egcd(a, m) when the gcd is 1, else no inverse (41_field.md R265). -/
def finv (m a : Nat) : Option Nat :=
  let dst := egcd a m
  if dst.1 = 1 then some dst.2.1 else none

/-- fpow(x, e): a negative exponent inverts x first and fails where finv does (41_field.md R270). -/
def fpow (m x : Nat) (e : Int) : Option Nat :=
  if e < 0 then (finv m x).map fun v => powSq (fmul m) 1 v e.natAbs
  else some (powSq (fmul m) 1 x e.toNat)

/-- The ascending search of FLOG from exponent `i`, over `n` exponents (41_field.md R280). -/
def flogFrom (m x base : Nat) : Nat → Nat → Option Nat
  | 0, _ => none
  | n + 1, i => if fpow m base (Int.ofNat i) = some x then some i else flogFrom m x base n (i + 1)

/-- The least i in [0, 2^K) with fpow(base, i) = x; `none` is the not-found indicator (41_field.md R280). -/
def flog (m k x base : Nat) : Option Nat := flogFrom m x base (2 ^ k) 0

/-- The loop of `conj_seq`: `seq` so far, at most `fuel` turns; `none` is overflow (41_field.md R285). -/
def conjLoop (m : Nat) : Nat → List Nat → Option (List Nat)
  | 0, _ => none
  | fuel + 1, seq =>
    let n := fmul m (seq.getLastD 0) (seq.getLastD 0)
    if n ∈ seq then some seq
    else if seq.length = 16 then none
    else conjLoop m fuel (seq ++ [n])

/-- conj_seq(x), the Frobenius orbit up to the first repetition, at most 16 elements; `none` where a 17th would be needed
(41_field.md R285). The sequence grows by one a turn, so 16 turns are enough. -/
def conjSeq (m x : Nat) : Option (List Nat) := conjLoop m 16 [x]

/-- The product of the polynomial with coefficient list `p` by X + c, over the field (41_field.md R291). -/
def mulLinear (m : Nat) (p : List Nat) (c : Nat) : List Nat :=
  List.zipWith (· ^^^ ·) (p.map (fun a => fmul m a c) ++ [0]) (0 :: p)

/-- The coefficients of the product of X + c over all c of `cs`, in order (41_field.md R291). -/
def minpolyCoeffs (m : Nat) (cs : List Nat) : List Nat := cs.foldl (mulLinear m) [1]

/-- Every coefficient is 0 or 1 (41_field.md R291). -/
def binaryCoeffs (p : List Nat) : Bool := p.all fun a => a == 0 || a == 1

/-- The bit polynomial with coefficient list `p`, p[j] the coefficient of X^j (41_field.md R291). -/
def packCoeffs : List Nat → Nat
  | [] => 0
  | a :: p => a + 2 * packCoeffs p

/-- The loop of FEVAL over i from n - 1 down to 0, from the value `r` (41_field.md R300). -/
def fevalFrom (m p x : Nat) : Nat → Nat → Nat
  | 0, r => r
  | i + 1, r => fevalFrom m p x i (fmul m r x ^^^ (p.testBit i).toNat)

/-- The value of the bit polynomial p at the field element x, by Horner from deg(p) down to 0 (41_field.md R300). -/
def feval (m p x : Nat) : Nat := fevalFrom m p x (deg p + 1).toNat 0

end Sys2Proof.Machine
end

