-- ==== Sys2Proof/Syntax.lean ====
section
/-! DEFINITION. The commands of KOMM-CORE: one constructor for each row of spec/opcode_table.json
(30_encoding.md R155). Arguments stand in the assembler's order (R160): destinations RD, RD2, RD3, then sources RS1, RS2. -/

namespace Sys2Proof

/-- A legal command, less the distinctness condition of 30_encoding.md R154 (see `Instr.wf`). -/
inductive Instr where
  /-- CFLUSH (43_system.md R380). -/
  | cflush
  /-- PADD rd, rs1, rs2 (40_ring.md R200). -/
  | padd (rd rs1 rs2 : Reg)
  /-- PMUL rd, rs1, rs2 (40_ring.md R211). -/
  | pmul (rd rs1 rs2 : Reg)
  /-- PDIVMOD rd, rd2, rs1, rs2: quotient to rd, remainder to rd2 (40_ring.md R221). -/
  | pdivmod (rd rd2 rs1 rs2 : Reg)
  /-- PDEG rd, rs1 (40_ring.md R225). -/
  | pdeg (rd rs1 : Reg)
  /-- PGCD rd, rd2, rd3, rs1, rs2: d to rd, s to rd2, t to rd3 (40_ring.md R231). -/
  | pgcd (rd rd2 rd3 rs1 rs2 : Reg)
  /-- PPOW rd, rs1, rs2 (40_ring.md R241). -/
  | ppow (rd rs1 rs2 : Reg)
  /-- FCFG rs1, rs2: K in rs1, modulus in rs2 (41_field.md R255). -/
  | fcfg (rs1 rs2 : Reg)
  /-- FCFG.D rs1: K in rs1, default modulus (41_field.md R255). -/
  | fcfgD (rs1 : Reg)
  /-- FADD rd, rs1, rs2 (41_field.md R258). -/
  | fadd (rd rs1 rs2 : Reg)
  /-- FMUL rd, rs1, rs2 (41_field.md R261). -/
  | fmul (rd rs1 rs2 : Reg)
  /-- FINV rd, rs1 (41_field.md R266). -/
  | finv (rd rs1 : Reg)
  /-- FDIV rd, rs1, rs2 (41_field.md R268). -/
  | fdiv (rd rs1 rs2 : Reg)
  /-- FPOW rd, rs1, rs2 (41_field.md R271). -/
  | fpow (rd rs1 rs2 : Reg)
  /-- FLOG rd, rs1, rs2: element in rs1, base in rs2 (41_field.md R280). -/
  | flog (rd rs1 rs2 : Reg)
  /-- FLOG.P rd, rs1: base FIELD_PRIM (41_field.md R280). -/
  | flogP (rd rs1 : Reg)
  /-- FCONJ rs1 (41_field.md R286). -/
  | fconj (rs1 : Reg)
  /-- FMINP rd, rs1 (41_field.md R292). -/
  | fminp (rd rs1 : Reg)
  /-- FEVAL rd, rs1, rs2: polynomial in rs1, point in rs2 (41_field.md R300). -/
  | feval (rd rs1 rs2 : Reg)
  /-- MRREF (42_matrix.md R341). -/
  | mrref
  /-- MXRREF (42_matrix.md R352). -/
  | mxrref
  /-- MRINV (42_matrix.md R360). -/
  | mrinv
  /-- MNULL (42_matrix.md R370). -/
  | mnull
deriving DecidableEq, Repr

end Sys2Proof
end

