-- ==== Sys2Proof/WellFormed.lean ====
section
/-! DEFINITION. Which terms of `Instr` are legal commands. Register numbers are 0 to 7 by their type; what remains is
30_encoding.md R154: the destination fields of PDIVMOD and of PGCD are distinct. -/

namespace Sys2Proof

/-- 30_encoding.md R154: PDIVMOD's two and PGCD's three destination fields hold distinct register numbers. -/
def Instr.wf : Instr → Bool
  | .pdivmod rd rd2 _ _ => rd != rd2
  | .pgcd rd rd2 rd3 _ _ => rd != rd2 && rd != rd3 && rd2 != rd3
  | .cflush => true
  | .padd _ _ _ => true
  | .pmul _ _ _ => true
  | .pdeg _ _ => true
  | .ppow _ _ _ => true
  | .fcfg _ _ => true
  | .fcfgD _ => true
  | .fadd _ _ _ => true
  | .fmul _ _ _ => true
  | .finv _ _ => true
  | .fdiv _ _ _ => true
  | .fpow _ _ _ => true
  | .flog _ _ _ => true
  | .flogP _ _ => true
  | .fconj _ => true
  | .fminp _ _ => true
  | .feval _ _ _ => true
  | .mrref => true
  | .mxrref => true
  | .mrinv => true
  | .mnull => true

end Sys2Proof
end

