-- ==== Sys2Proof/Decode.lean ====
section
/-! DEFINITION. The command word: its fields, the decoder and the encoder (30_encoding.md R150 to R158), and the
opcode table of spec/opcode_table.json as data (R153). -/

namespace Sys2Proof

/-- `v[hi:lo]`, the field of bits `hi` down to `lo` read as an unsigned number (00_scope.md R11). -/
def bits (v : Word) (hi lo : Nat) : Nat := v.toNat / 2 ^ lo % 2 ^ (hi + 1 - lo)

/-- The fields of a 64-bit CMD write: those of the command word (30_encoding.md R151) and bits 63:32 (R152). -/
structure Fields where
  /-- OP, bits 7:0. -/
  op : Nat
  /-- RD, bits 10:8. -/
  rd : Reg
  /-- RS1, bits 13:11. -/
  rs1 : Reg
  /-- RS2, bits 16:14. -/
  rs2 : Reg
  /-- RD2, bits 19:17. -/
  rd2 : Reg
  /-- RD3, bits 22:20. -/
  rd3 : Reg
  /-- F, bit 23. -/
  f : Bool
  /-- RSV, bits 31:24. -/
  rsv : Nat
  /-- Bits 63:32 of the CMD write. -/
  high : Nat
deriving DecidableEq, Repr

/-- A 3-bit register field names G0 to G7 (30_encoding.md R151). -/
def regField (w : Word) (lo : Nat) : Reg := Fin.ofNat 8 (bits w (lo + 2) lo)

/-- The fields of a CMD write, by the positions of 30_encoding.md R151. -/
def Fields.ofWord (w : Word) : Fields :=
  { op := bits w 7 0, rd := regField w 8, rs1 := regField w 11, rs2 := regField w 14, rd2 := regField w 17,
    rd3 := regField w 20, f := bits w 23 23 == 1, rsv := bits w 31 24, high := bits w 63 32 }

/-- The CMD write whose fields are `f`, by the positions of 30_encoding.md R151. -/
def Fields.toWord (f : Fields) : Word :=
  BitVec.ofNat 64
    (f.op + f.rd.val * 2 ^ 8 + f.rs1.val * 2 ^ 11 + f.rs2.val * 2 ^ 14 + f.rd2.val * 2 ^ 17 + f.rd3.val * 2 ^ 20
      + f.f.toNat * 2 ^ 23 + f.rsv * 2 ^ 24 + f.high * 2 ^ 32)

/-- Why a CMD write is illegal (60_exceptions.md R402). Every reason ends in EILL; the name is the model's. -/
inductive Illegal where
  /-- Bits 63:32 are not all zero (30_encoding.md R152). -/
  | highBits
  /-- Bits 31:24 are not all zero (30_encoding.md R152). -/
  | reservedBits
  /-- The opcode is in no row of the opcode map (30_encoding.md R156). -/
  | reservedOpcode
  /-- A field the command does not use is not zero (30_encoding.md R153, R157). -/
  | unusedField
  /-- Two destination fields of PDIVMOD or PGCD are equal (30_encoding.md R154). -/
  | equalDestinations
deriving DecidableEq, Repr

/-- `i` when every unused field is zero, else the word is illegal (30_encoding.md R153). -/
def whenUnusedZero (unusedZero : Bool) (i : Instr) : Except Illegal Instr :=
  if unusedZero then .ok i else .error .unusedField

/-- `i` when its destinations are distinct, else the word is illegal (30_encoding.md R154). -/
def whenDistinct (i : Instr) : Except Illegal Instr :=
  if i.wf then .ok i else .error .equalDestinations

/-- The opcode map of 30_encoding.md R155 on the fields of a word whose bits 63:24 are zero: each row's used fields
make the instruction, and every other field is zero. -/
def decodeOp (f : Fields) : Except Illegal Instr :=
  match f.op with
  | 0x01 => whenUnusedZero (!f.f && f.rd == 0 && f.rs1 == 0 && f.rs2 == 0 && f.rd2 == 0 && f.rd3 == 0) .cflush
  | 0x10 => whenUnusedZero (!f.f && f.rd2 == 0 && f.rd3 == 0) (.padd f.rd f.rs1 f.rs2)
  | 0x11 => whenUnusedZero (!f.f && f.rd2 == 0 && f.rd3 == 0) (.pmul f.rd f.rs1 f.rs2)
  | 0x12 =>
    match whenUnusedZero (!f.f && f.rd3 == 0) (.pdivmod f.rd f.rd2 f.rs1 f.rs2) with
    | .ok i => whenDistinct i
    | .error e => .error e
  | 0x13 => whenUnusedZero (!f.f && f.rs2 == 0 && f.rd2 == 0 && f.rd3 == 0) (.pdeg f.rd f.rs1)
  | 0x14 =>
    match whenUnusedZero (!f.f) (.pgcd f.rd f.rd2 f.rd3 f.rs1 f.rs2) with
    | .ok i => whenDistinct i
    | .error e => .error e
  | 0x15 => whenUnusedZero (!f.f && f.rd2 == 0 && f.rd3 == 0) (.ppow f.rd f.rs1 f.rs2)
  | 0x20 =>
    if f.f then whenUnusedZero (f.rd == 0 && f.rs2 == 0 && f.rd2 == 0 && f.rd3 == 0) (.fcfgD f.rs1)
    else whenUnusedZero (f.rd == 0 && f.rd2 == 0 && f.rd3 == 0) (.fcfg f.rs1 f.rs2)
  | 0x21 => whenUnusedZero (!f.f && f.rd2 == 0 && f.rd3 == 0) (.fadd f.rd f.rs1 f.rs2)
  | 0x22 => whenUnusedZero (!f.f && f.rd2 == 0 && f.rd3 == 0) (.fmul f.rd f.rs1 f.rs2)
  | 0x23 => whenUnusedZero (!f.f && f.rs2 == 0 && f.rd2 == 0 && f.rd3 == 0) (.finv f.rd f.rs1)
  | 0x24 => whenUnusedZero (!f.f && f.rd2 == 0 && f.rd3 == 0) (.fdiv f.rd f.rs1 f.rs2)
  | 0x25 => whenUnusedZero (!f.f && f.rd2 == 0 && f.rd3 == 0) (.fpow f.rd f.rs1 f.rs2)
  | 0x26 =>
    if f.f then whenUnusedZero (f.rs2 == 0 && f.rd2 == 0 && f.rd3 == 0) (.flogP f.rd f.rs1)
    else whenUnusedZero (f.rd2 == 0 && f.rd3 == 0) (.flog f.rd f.rs1 f.rs2)
  | 0x27 => whenUnusedZero (!f.f && f.rd == 0 && f.rs2 == 0 && f.rd2 == 0 && f.rd3 == 0) (.fconj f.rs1)
  | 0x28 => whenUnusedZero (!f.f && f.rs2 == 0 && f.rd2 == 0 && f.rd3 == 0) (.fminp f.rd f.rs1)
  | 0x29 => whenUnusedZero (!f.f && f.rd2 == 0 && f.rd3 == 0) (.feval f.rd f.rs1 f.rs2)
  | 0x30 => whenUnusedZero (!f.f && f.rd == 0 && f.rs1 == 0 && f.rs2 == 0 && f.rd2 == 0 && f.rd3 == 0) .mrref
  | 0x31 => whenUnusedZero (!f.f && f.rd == 0 && f.rs1 == 0 && f.rs2 == 0 && f.rd2 == 0 && f.rd3 == 0) .mxrref
  | 0x32 => whenUnusedZero (!f.f && f.rd == 0 && f.rs1 == 0 && f.rs2 == 0 && f.rd2 == 0 && f.rd3 == 0) .mrinv
  | 0x33 => whenUnusedZero (!f.f && f.rd == 0 && f.rs1 == 0 && f.rs2 == 0 && f.rd2 == 0 && f.rd3 == 0) .mnull
  | _ => .error .reservedOpcode

/-- Decode the fields of a CMD write: bits 63:24 are zero (30_encoding.md R152), then the opcode map. -/
def Fields.decode (f : Fields) : Except Illegal Instr :=
  if f.high != 0 then .error .highBits
  else if f.rsv != 0 then .error .reservedBits
  else decodeOp f

/-- Decode a 64-bit CMD write (30_encoding.md R150 to R158). Total: every word is an instruction or illegal by name. -/
def decode (w : Word) : Except Illegal Instr := (Fields.ofWord w).decode

/-- OP of each command (30_encoding.md R155). -/
def Instr.opcode : Instr → Nat
  | .cflush => 0x01
  | .padd _ _ _ => 0x10
  | .pmul _ _ _ => 0x11
  | .pdivmod _ _ _ _ => 0x12
  | .pdeg _ _ => 0x13
  | .pgcd _ _ _ _ _ => 0x14
  | .ppow _ _ _ => 0x15
  | .fcfg _ _ => 0x20
  | .fcfgD _ => 0x20
  | .fadd _ _ _ => 0x21
  | .fmul _ _ _ => 0x22
  | .finv _ _ => 0x23
  | .fdiv _ _ _ => 0x24
  | .fpow _ _ _ => 0x25
  | .flog _ _ _ => 0x26
  | .flogP _ _ => 0x26
  | .fconj _ => 0x27
  | .fminp _ _ => 0x28
  | .feval _ _ _ => 0x29
  | .mrref => 0x30
  | .mxrref => 0x31
  | .mrinv => 0x32
  | .mnull => 0x33

/-- The fields with opcode `op` and every other field zero (30_encoding.md R153). -/
def Fields.ofOp (op : Nat) : Fields :=
  { op := op, rd := 0, rs1 := 0, rs2 := 0, rd2 := 0, rd3 := 0, f := false, rsv := 0, high := 0 }

/-- The fields of each command (30_encoding.md R155, R157): used fields as given, every other field zero. -/
def Instr.fields (i : Instr) : Fields :=
  let z := Fields.ofOp i.opcode
  match i with
  | .cflush => z
  | .padd rd rs1 rs2 => { z with rd := rd, rs1 := rs1, rs2 := rs2 }
  | .pmul rd rs1 rs2 => { z with rd := rd, rs1 := rs1, rs2 := rs2 }
  | .pdivmod rd rd2 rs1 rs2 => { z with rd := rd, rd2 := rd2, rs1 := rs1, rs2 := rs2 }
  | .pdeg rd rs1 => { z with rd := rd, rs1 := rs1 }
  | .pgcd rd rd2 rd3 rs1 rs2 => { z with rd := rd, rd2 := rd2, rd3 := rd3, rs1 := rs1, rs2 := rs2 }
  | .ppow rd rs1 rs2 => { z with rd := rd, rs1 := rs1, rs2 := rs2 }
  | .fcfg rs1 rs2 => { z with rs1 := rs1, rs2 := rs2 }
  | .fcfgD rs1 => { z with rs1 := rs1, f := true }
  | .fadd rd rs1 rs2 => { z with rd := rd, rs1 := rs1, rs2 := rs2 }
  | .fmul rd rs1 rs2 => { z with rd := rd, rs1 := rs1, rs2 := rs2 }
  | .finv rd rs1 => { z with rd := rd, rs1 := rs1 }
  | .fdiv rd rs1 rs2 => { z with rd := rd, rs1 := rs1, rs2 := rs2 }
  | .fpow rd rs1 rs2 => { z with rd := rd, rs1 := rs1, rs2 := rs2 }
  | .flog rd rs1 rs2 => { z with rd := rd, rs1 := rs1, rs2 := rs2 }
  | .flogP rd rs1 => { z with rd := rd, rs1 := rs1, f := true }
  | .fconj rs1 => { z with rs1 := rs1 }
  | .fminp rd rs1 => { z with rd := rd, rs1 := rs1 }
  | .feval rd rs1 rs2 => { z with rd := rd, rs1 := rs1, rs2 := rs2 }
  | .mrref => z
  | .mxrref => z
  | .mrinv => z
  | .mnull => z

/-- The 64-bit CMD write of a command: its 32-bit word with zeros above (30_encoding.md R150, R151). -/
def encode (i : Instr) : Word := i.fields.toWord

/-- A row of spec/opcode_table.json: a word `w` is the row's command exactly when `w AND mask = pattern`
(30_encoding.md R153). -/
structure OpcodeRow where
  /-- The row's mnemonic. -/
  mnemonic : String
  /-- The row's "match". -/
  pattern : BitVec 32
  /-- The row's "mask". -/
  mask : BitVec 32
deriving DecidableEq, Repr

/-- The rows of spec/opcode_table.json, in its order (30_encoding.md R153, R155). -/
def opcodeTable : List OpcodeRow :=
  [⟨"CFLUSH", 0x00000001, 0xFFFFFFFF⟩, ⟨"PADD", 0x00000010, 0xFFFE00FF⟩, ⟨"PMUL", 0x00000011, 0xFFFE00FF⟩,
   ⟨"PDIVMOD", 0x00000012, 0xFFF000FF⟩, ⟨"PDEG", 0x00000013, 0xFFFFC0FF⟩, ⟨"PGCD", 0x00000014, 0xFF8000FF⟩,
   ⟨"PPOW", 0x00000015, 0xFFFE00FF⟩, ⟨"FCFG", 0x00000020, 0xFFFE07FF⟩, ⟨"FCFG.D", 0x00800020, 0xFFFFC7FF⟩,
   ⟨"FADD", 0x00000021, 0xFFFE00FF⟩, ⟨"FMUL", 0x00000022, 0xFFFE00FF⟩, ⟨"FINV", 0x00000023, 0xFFFFC0FF⟩,
   ⟨"FDIV", 0x00000024, 0xFFFE00FF⟩, ⟨"FPOW", 0x00000025, 0xFFFE00FF⟩, ⟨"FLOG", 0x00000026, 0xFFFE00FF⟩,
   ⟨"FLOG.P", 0x00800026, 0xFFFFC0FF⟩, ⟨"FCONJ", 0x00000027, 0xFFFFC7FF⟩, ⟨"FMINP", 0x00000028, 0xFFFFC0FF⟩,
   ⟨"FEVAL", 0x00000029, 0xFFFE00FF⟩, ⟨"MRREF", 0x00000030, 0xFFFFFFFF⟩, ⟨"MXRREF", 0x00000031, 0xFFFFFFFF⟩,
   ⟨"MRINV", 0x00000032, 0xFFFFFFFF⟩, ⟨"MNULL", 0x00000033, 0xFFFFFFFF⟩]

/-- The mnemonic of each command, as spec/opcode_table.json spells it (30_encoding.md R155). -/
def Instr.mnemonic : Instr → String
  | .cflush => "CFLUSH"
  | .padd _ _ _ => "PADD"
  | .pmul _ _ _ => "PMUL"
  | .pdivmod _ _ _ _ => "PDIVMOD"
  | .pdeg _ _ => "PDEG"
  | .pgcd _ _ _ _ _ => "PGCD"
  | .ppow _ _ _ => "PPOW"
  | .fcfg _ _ => "FCFG"
  | .fcfgD _ => "FCFG.D"
  | .fadd _ _ _ => "FADD"
  | .fmul _ _ _ => "FMUL"
  | .finv _ _ => "FINV"
  | .fdiv _ _ _ => "FDIV"
  | .fpow _ _ _ => "FPOW"
  | .flog _ _ _ => "FLOG"
  | .flogP _ _ => "FLOG.P"
  | .fconj _ => "FCONJ"
  | .fminp _ _ => "FMINP"
  | .feval _ _ _ => "FEVAL"
  | .mrref => "MRREF"
  | .mxrref => "MXRREF"
  | .mrinv => "MRINV"
  | .mnull => "MNULL"

/-- The CMD write that carries a table word: the low `nbits` bits of `w`, zeros above. The core's unit is the 64-bit
word (20_memory.md R112), so the hardware's layout of the word is the CMD write itself. -/
def tableWord (nbits w : Nat) : Word := BitVec.ofNat 64 (w % 2 ^ nbits)

/-- The instruction the decoder reads from a table word of `nbits` bits; none where the word is illegal. -/
def decodeTableWord (nbits w : Nat) : Option Instr :=
  match decode (tableWord nbits w) with
  | .ok i => some i
  | .error _ => none

/-- The pseudo-instructions of 30_encoding.md R161 and the one command each expands to. -/
def Instr.psub (rd rs1 rs2 : Reg) : Instr := .padd rd rs1 rs2

/-- `FSUB` is FADD (30_encoding.md R161). -/
def Instr.fsub (rd rs1 rs2 : Reg) : Instr := .fadd rd rs1 rs2

/-- `PSQR` is PMUL of a register with itself (30_encoding.md R161). -/
def Instr.psqr (rd rs1 : Reg) : Instr := .pmul rd rs1 rs1

/-- `FSQR` is FMUL of a register with itself (30_encoding.md R161). -/
def Instr.fsqr (rd rs1 : Reg) : Instr := .fmul rd rs1 rs1

end Sys2Proof
end

