-- ==== Sys2Proof/Config.lean ====
section
/-! DEFINITION. What the spec fixes as parameters (00_scope.md R10) and what it leaves open: every open value is an
opaque constant with no body, so that nothing can be proved of it. Also the entries of the four hidden caches
(10_state.md R80 to R83), which the open latency may depend on. -/

namespace Sys2Proof

/-- An entry of the multiply cache: key (a, b) and the value fmul(a, b) (10_state.md R80). -/
structure MulEntry where
  a : Nat
  b : Nat
  value : Nat
deriving DecidableEq, Repr

/-- An entry of the inverse cache: key a and finv(a), `none` the mark that a has no inverse (10_state.md R81). -/
structure InvEntry where
  a : Nat
  value : Option Nat
deriving DecidableEq, Repr

/-- An entry of the logarithm cache: key (x, base) and the exponent, `none` the not-found mark (10_state.md R82). -/
structure LogEntry where
  x : Nat
  base : Nat
  value : Option Nat
deriving DecidableEq, Repr

/-- An entry of the reduction cache: key (a, b) and pdivmod(a, b) (10_state.md R83). -/
structure RedEntry where
  a : Nat
  b : Nat
  quot : Nat
  rem : Nat
deriving DecidableEq, Repr

/-- The valid entries of the four hidden caches (10_state.md R80 to R83). -/
structure Caches where
  /-- The multiply cache (R80). -/
  mul : List MulEntry
  /-- The inverse cache (R81). -/
  inv : List InvEntry
  /-- The logarithm cache (R82). -/
  log : List LogEntry
  /-- The reduction cache (R83). -/
  red : List RedEntry
deriving DecidableEq, Repr

/-- Every entry of all four caches invalid (10_state.md R85). -/
def Caches.empty : Caches := { mul := [], inv := [], log := [], red := [] }

/-- CACHE_MUL, entries of the multiply cache (00_scope.md R10: implementation-defined, at least 0). DESIGN CHOICE, log 9; safe. -/
opaque Config.cacheMul : Nat

/-- CACHE_INV, entries of the inverse cache (00_scope.md R10). DESIGN CHOICE, log 9; safe. -/
opaque Config.cacheInv : Nat

/-- CACHE_LOG, entries of the logarithm cache (00_scope.md R10). DESIGN CHOICE, log 9; safe. -/
opaque Config.cacheLog : Nat

/-- CACHE_RED, entries of the reduction cache (00_scope.md R10, 10_state.md R83: possibly 0). DESIGN CHOICE, log 9; safe. -/
opaque Config.cacheRed : Nat

/-- The keys the implementation-defined policy leaves in the multiply cache, at draw `n` (10_state.md R80).
DESIGN CHOICE, log 7; safe. -/
opaque Config.mulKeys : Nat → List (Nat × Nat)

/-- The keys the policy leaves in the inverse cache, at draw `n` (10_state.md R81). DESIGN CHOICE, log 7; safe. -/
opaque Config.invKeys : Nat → List Nat

/-- The keys the policy leaves in the logarithm cache, at draw `n` (10_state.md R82). DESIGN CHOICE, log 7; safe. -/
opaque Config.logKeys : Nat → List (Nat × Nat)

/-- The keys the policy leaves in the reduction cache, at draw `n` (10_state.md R83). DESIGN CHOICE, log 7; safe. -/
opaque Config.redKeys : Nat → List (Nat × Nat)

/-- LATENCY(op, operands, caches) of 00_scope.md R10 and 70_reset_and_hazards.md R470: at draw `n`, for the accepted word,
the general registers, the field context (FV, K, modulus, primitive element, order), BDIM0's fields, BANK0 and the
caches, how many host actions fall before the completion. These are all the values a command can read (10_state.md R58:
register, bank and field values). Finite because it is a number; the completion itself is the one further step.
DESIGN CHOICE, log 2; safe. -/
opaque Config.latency (n : Nat) (w : Word) (g : Vector Word 8) (fv : Bool) (k : BitVec 5) (modulus prim order : Word)
  (rows cols : BitVec 7) (bank0 : Vector Word 64) (caches : Caches) : Nat

/-- The value a read of a result word returns while the core is busy, at draw `n` (70_reset_and_hazards.md R461: a free
64-bit input under no law). DESIGN CHOICE, log 3; safe. -/
opaque Config.busyRead : Nat → Word

/-- Row `r` of bank `b` after the reset that is draw `n` (10_state.md R90: unspecified, a draw). DESIGN CHOICE, log 4. -/
opaque Config.bankAtReset (n b r : Nat) : Word

/-- PIVOT[i] after the reset that is draw `n` (10_state.md R90: unspecified, a draw; R72: bits 5:0).
DESIGN CHOICE, log 5. -/
opaque Config.pivotAtReset (n i : Nat) : BitVec 6

/-- CONJ[i] after the reset that is draw `n` (10_state.md R90: unspecified, a draw). DESIGN CHOICE, log 5. -/
opaque Config.conjAtReset (n i : Nat) : Word

/-- PORT_BASE, where the platform maps the host port (60_exceptions.md R433). No rule reads it and no definition of the
model does. DESIGN CHOICE, log 20; safe. -/
opaque Config.portBase : Nat

end Sys2Proof
end

