-- ==== Sys2Proof/Machine/State.lean ====
section
/-! DEFINITION. The state of KOMM-CORE (10_state.md R50), the host's coming actions, the two ways a step can stop, and
the machine right after reset (10_state.md R90, 70_reset_and_hazards.md R450). -/

namespace Sys2Proof.Machine

/-- The stored fields of STATUS (10_state.md R54). BUSY and FV are views of the busy state and of the field context
(`statusWord`; DEDUCED, log 12; safe). -/
structure Status where
  /-- DONE, bit 1. -/
  done : Bool
  /-- ERR, bit 2. -/
  err : Bool
  /-- NF, bit 3. -/
  nf : Bool
  /-- ERRACC, bit 5, sticky. -/
  errAcc : Bool
  /-- COLL, bit 6, sticky. -/
  coll : Bool
  /-- ECODE, bits 15:8. -/
  ecode : BitVec 8
  /-- LASTOP, bits 23:16. -/
  lastOp : BitVec 8
deriving DecidableEq, Repr

/-- The field context (10_state.md R60 to R64). -/
structure FieldCtx where
  /-- FV, the valid bit (R60). -/
  fv : Bool
  /-- FIELD_K, bits 4:0 (R61). -/
  k : BitVec 5
  /-- FIELD_MOD (R62). -/
  modulus : Word
  /-- FIELD_PRIM (R63). -/
  prim : Word
  /-- FIELD_ORDER (R64). -/
  order : Word
deriving DecidableEq, Repr

/-- The field context while FV = 0: K, modulus, order and primitive element read 0 (10_state.md R60). -/
def FieldCtx.invalid : FieldCtx := { fv := false, k := 0, modulus := 0, prim := 0, order := 0 }

/-- A bank dimension register: ROWS, bits 6:0, and COLS, bits 14:8 (10_state.md R71). -/
structure Dim where
  rows : BitVec 7
  cols : BitVec 7
deriving DecidableEq, Repr

/-- A matrix bank: 64 rows of 64 bits (10_state.md R70). -/
abbrev Bank := Vector Word 64

/-- What the host, the platform or a bus bridge does to the core (20_memory.md R110, R112; 70_reset_and_hazards.md R450).
DESIGN CHOICE, log 22. -/
inductive HostOp where
  /-- `PortRead(i)` (20_memory.md R110). -/
  | read (i : BitVec 12)
  /-- `PortWrite(i, v)` (20_memory.md R110). -/
  | write (i : BitVec 12) (v : Word)
  /-- `WAIT`: repeat a read of STATUS until BUSY = 0 (30_encoding.md R162). -/
  | wait
  /-- A read of `width` bytes at byte address `addr` of a byte-addressed bus (20_memory.md R112, R113). -/
  | busRead (addr : BitVec 15) (width : Nat)
  /-- A write of `bytes`, lowest address first, at byte address `addr` of a byte-addressed bus (20_memory.md R112, R113). -/
  | busWrite (addr : BitVec 15) (bytes : List Byte)
  /-- The platform applies reset and releases it (70_reset_and_hazards.md R450). One event: the spec does not say what a
  host access does while reset is applied, and the model lets none fall inside it (DESIGN CHOICE, log 25; unsafe). -/
  | reset
deriving DecidableEq, Repr

/-- What a read of the host returned. -/
inductive HostReply where
  /-- The 64-bit word at word index `i` (20_memory.md R110). -/
  | word (i : BitVec 12) (v : Word)
  /-- The eight bytes from byte address `addr`, lowest address first (20_memory.md R112). -/
  | bytes (addr : BitVec 15) (bs : List Byte)
deriving DecidableEq, Repr

/-- The state of the core, and the model's own four fields at the end. Plain data. -/
structure State where
  /-- G0 to G7 (10_state.md R52). -/
  g : Vector Word 8
  /-- The stored fields of STATUS (10_state.md R54). -/
  status : Status
  /-- CTRL.IE (10_state.md R55). -/
  ie : Bool
  /-- CMD_COUNT (10_state.md R57). -/
  cmdCount : Word
  /-- The busy state: `none` idle, `some w` busy with the accepted CMD write `w` (10_state.md R58, 60_exceptions.md R405). -/
  busy : Option Word
  /-- The field context (10_state.md R60). -/
  field : FieldCtx
  /-- BDIM0 to BDIM3 (10_state.md R71). -/
  dims : Vector Dim 4
  /-- BANK0 to BANK3 (10_state.md R70). -/
  banks : Vector Bank 4
  /-- PIVCNT (10_state.md R72; width DEDUCED, log 16). -/
  pivCnt : BitVec 7
  /-- PIVOT[0] to PIVOT[63], bits 5:0 (10_state.md R72). -/
  piv : Vector (BitVec 6) 64
  /-- CONJCNT (10_state.md R73; width DEDUCED, log 16). -/
  conjCnt : BitVec 5
  /-- CONJ[0] to CONJ[15] (10_state.md R73). -/
  conj : Vector Word 16
  /-- The hidden caches (10_state.md R80 to R83). -/
  caches : Caches
  /-- The model's own: host actions that still fall before the completion of the held command (log 2). -/
  delay : Nat
  /-- The model's own: what the host and the platform will do, in program order (log 1). -/
  pending : List HostOp
  /-- The model's own: what the host's reads returned, newest first (log 23). -/
  replies : List HostReply
  /-- The model's own: how many draws of the open values have been used (log 6). -/
  draws : Nat
deriving DecidableEq, Repr

/-- The reasons a step could stop with a fault: there is none. The core takes no trap and raises no exception; an error
is an outcome of a command, recorded in STATUS in a next state (60_exceptions.md R400; DEDUCED, log 17; safe). -/
inductive Fault
deriving DecidableEq, Repr

/-- The reasons a step can be refused. -/
inductive Refusal where
  /-- Raised by an arm of `exec` for a command that has no meaning yet. Safe: the run stops. No arm uses it. -/
  | notModelled (mnemonic : String)
  /-- Raised by a byte-bus access that is not 8 bytes wide and 8-byte aligned: the bridge must not forward it and it has
  no meaning in the model (20_memory.md R113). Safe: the run stops. -/
  | busAccessNotForwarded
deriving DecidableEq, Repr

/-- The core as a reset that is draw `n` leaves it (10_state.md R90): the values of the table, and draws for what it
calls unspecified (log 4, log 5). The draw counter goes on after `n`; nothing is pending (log 23). -/
def State.atReset (n : Nat) : State :=
  { g := Vector.replicate 8 0
    status :=
      { done := false, err := false, nf := false, errAcc := false, coll := false, ecode := 0, lastOp := 0 }
    ie := false
    cmdCount := 0
    busy := none
    field := FieldCtx.invalid
    dims := Vector.replicate 4 { rows := 0, cols := 0 }
    banks := Vector.ofFn fun b : Fin 4 => Vector.ofFn fun r : Fin 64 => Config.bankAtReset n b.val r.val
    pivCnt := 0
    piv := Vector.ofFn fun i : Fin 64 => Config.pivotAtReset n i.val
    conjCnt := 0
    conj := Vector.ofFn fun i : Fin 16 => Config.conjAtReset n i.val
    caches := Caches.empty
    delay := 0
    pending := []
    replies := []
    draws := n + 1 }

/-- The machine right after reset (10_state.md R90, 70_reset_and_hazards.md R450, R451): draw 0. -/
def State.reset : State := State.atReset 0

end Sys2Proof.Machine
end

