-- ==== Sys2Proof/Machine/Flags.lean ====
section
/-! DEFINITION. STATUS and CTRL: the error codes (60_exceptions.md R401), what acceptance, completion, a refused write and
a CTRL write do to the stored STATUS fields (10_state.md R54, R55; 60_exceptions.md R405, R410, R411), and the words the
host reads. -/

namespace Sys2Proof.Machine

/-- The errors of a command (60_exceptions.md R401). -/
inductive ErrorCode where
  /-- Illegal command word. -/
  | eill
  /-- Polynomial division by 0, or an element with no inverse. -/
  | edivzero
  /-- A result that does not fit. -/
  | eovf
  /-- A field command while no field is valid. -/
  | enofield
  /-- A bad field configuration. -/
  | econfig
  /-- A field-element operand of degree at least K. -/
  | erange
  /-- A minimal-polynomial coefficient outside 0 and 1. -/
  | enotbin
  /-- Matrix dimensions outside 1 to 64. -/
  | edim
  /-- An input matrix not of full row rank. -/
  | erank
deriving DecidableEq, Repr

/-- The value written to STATUS.ECODE (60_exceptions.md R401). -/
def ErrorCode.code : ErrorCode → BitVec 8
  | .eill => 0x01
  | .edivzero => 0x02
  | .eovf => 0x03
  | .enofield => 0x04
  | .econfig => 0x05
  | .erange => 0x06
  | .enotbin => 0x07
  | .edim => 0x08
  | .erank => 0x09

/-- Acceptance clears DONE and keeps the rest (60_exceptions.md R405). -/
def Status.accepted (st : Status) : Status := { st with done := false }

/-- Completion without an error of a command with opcode `op` (60_exceptions.md R411): ERRACC and COLL are unchanged. -/
def Status.completedOk (op : BitVec 8) (nf : Bool) (st : Status) : Status :=
  { st with done := true, err := false, nf := nf, ecode := 0, lastOp := op }

/-- Completion with error `e` of a command with opcode `op` (60_exceptions.md R410): COLL is unchanged. -/
def Status.completedError (op : BitVec 8) (e : ErrorCode) (st : Status) : Status :=
  { st with done := true, err := true, nf := false, errAcc := true, ecode := e.code, lastOp := op }

/-- A host write refused because the core is busy sets COLL (70_reset_and_hazards.md R462). -/
def Status.collided (st : Status) : Status := { st with coll := true }

/-- CTRL.CLR_DONE clears DONE; CTRL.CLR_STICKY clears ERRACC and COLL (10_state.md R55). -/
def Status.ctrlCleared (clrDone clrSticky : Bool) (st : Status) : Status :=
  { st with
    done := st.done && !clrDone
    errAcc := st.errAcc && !clrSticky
    coll := st.coll && !clrSticky }

/-- STATUS as the host reads it (10_state.md R54). BUSY is 1 while a command is held (R58) and FV is the field
context's valid bit (R60). -/
def State.statusWord (s : State) : Word :=
  BitVec.ofNat 64
    (s.busy.isSome.toNat + s.status.done.toNat * 2 ^ 1 + s.status.err.toNat * 2 ^ 2 + s.status.nf.toNat * 2 ^ 3
      + s.field.fv.toNat * 2 ^ 4 + s.status.errAcc.toNat * 2 ^ 5 + s.status.coll.toNat * 2 ^ 6
      + s.status.ecode.toNat * 2 ^ 8 + s.status.lastOp.toNat * 2 ^ 16)

/-- CTRL as the host reads it: IE in bit 0, every other bit 0 (10_state.md R55). -/
def State.ctrlWord (s : State) : Word := BitVec.ofNat 64 s.ie.toNat

/-- The interrupt output: CTRL.IE AND STATUS.DONE (10_state.md R87, 60_exceptions.md R420). -/
def State.irq (s : State) : Bool := s.ie && s.status.done

/-- A bank dimension register as the host reads it (10_state.md R71). -/
def Dim.toWord (d : Dim) : Word := BitVec.ofNat 64 (d.rows.toNat + d.cols.toNat * 2 ^ 8)

/-- What a write of `v` leaves in a bank dimension register: bits 6:0 and 14:8 (10_state.md R71). -/
def Dim.ofWord (v : Word) : Dim := { rows := BitVec.ofNat 7 (bits v 6 0), cols := BitVec.ofNat 7 (bits v 14 8) }

/-- The dimension register of an r×c result (42_matrix.md R333). -/
def Dim.ofNats (r c : Nat) : Dim := { rows := BitVec.ofNat 7 r, cols := BitVec.ofNat 7 c }

end Sys2Proof.Machine
end

