-- ==== Sys2Proof/Machine/MatrixMath.lean ====
section
/-! DEFINITION. Matrices over GF(2) as lists of row words, bit j of a row its entry in column j (00_scope.md R11):
product, row reduction, reduction with transform, right inverse and null matrix (42_matrix.md R336 to R370). Row words are
natural numbers, because an augmented row has up to 128 bits (R340). -/

namespace Sys2Proof.Machine

/-- Row i of a matrix. -/
def row (A : List Nat) (i : Nat) : Nat := A.getD i 0

/-- The entry in row i, column j. -/
def entry (A : List Nat) (i j : Nat) : Bool := (row A i).testBit j

/-- The XOR of the rows l < n of B for which bit l of `sel` is 1 (42_matrix.md R336, row-word form). -/
def xorRows (B : List Nat) (sel : Nat) : Nat → Nat
  | 0 => 0
  | l + 1 => if sel.testBit l then xorRows B sel l ^^^ row B l else xorRows B sel l

/-- matmul2(A, B) for a matrix A with as many columns as B has rows (42_matrix.md R336). -/
def matmul2 (A B : List Nat) : List Nat := A.map fun a => xorRows B a B.length

/-- The search of `lead` over the n columns from j. -/
def leadFrom (a : Nat) : Nat → Nat → Option Nat
  | 0, _ => none
  | n + 1, j => if a.testBit j then some j else leadFrom a n (j + 1)

/-- lead: the smallest column j in [0, q) where the row is 1; `none` is +∞ (42_matrix.md R340). -/
def lead (q a : Nat) : Option Nat := leadFrom a q 0

/-- Strictly smaller lead, where +∞ is greater than every column (42_matrix.md R340). -/
def leadLt : Option Nat → Option Nat → Bool
  | some a, some b => a < b
  | some _, none => true
  | none, _ => false

/-- The earliest row of smallest lead among `best` and the n rows from i (42_matrix.md R340, tie-break: earliest). -/
def selectFrom (q : Nat) (A : List Nat) : Nat → Nat → Nat → Nat
  | 0, _, best => best
  | n + 1, i, best =>
    selectFrom q A n (i + 1) (if leadLt (lead q (row A i)) (lead q (row A best)) then i else best)

/-- sel: the smallest i in [r, p) among those with the smallest lead (42_matrix.md R340). -/
def selectRow (q : Nat) (A : List Nat) (r : Nat) : Nat := selectFrom q A (A.length - (r + 1)) (r + 1) r

/-- Swap rows i and j (42_matrix.md R340). -/
def swapRows (A : List Nat) (i j : Nat) : List Nat := (A.set i (row A j)).set j (row A i)

/-- XOR row r into every other row whose column c is 1 (42_matrix.md R340). -/
def eliminate (A : List Nat) (r c : Nat) : List Nat :=
  A.mapIdx fun i a => if i ≠ r ∧ a.testBit c then a ^^^ row A r else a

/-- One turn of `rref` at row r (42_matrix.md R340). -/
def rrefStep (q : Nat) (A : List Nat) (r : Nat) : List Nat :=
  let B := swapRows A r (selectRow q A r)
  match lead q (row B r) with
  | none => B
  | some c => eliminate B r c

/-- The first n turns of `rref`, at rows 0 to n - 1 (42_matrix.md R340). -/
def rrefUpTo (q : Nat) (A : List Nat) : Nat → List Nat
  | 0 => A
  | r + 1 => rrefStep q (rrefUpTo q A r) r

/-- rref(A) for a matrix with q columns (42_matrix.md R340). -/
def rref (q : Nat) (A : List Nat) : List Nat := rrefUpTo q A A.length

/-- The k×k identity matrix. -/
def identityRows (k : Nat) : List Nat := (List.range k).map fun i => 1 <<< i

/-- The augmented matrix [M | I_k] of a k×n matrix (42_matrix.md R350). -/
def augment (n : Nat) (M : List Nat) : List Nat := M.mapIdx fun i a => a ||| (1 <<< (n + i))

/-- Column j of the matrix equals the standard basis vector with its 1 in row p (42_matrix.md R350). -/
def isBasisColumn (A : List Nat) (j p : Nat) : Bool := (List.range A.length).all fun i => entry A i j == (i == p)

/-- The pivot scan over the n columns from j, with `piv` found so far (42_matrix.md R350). -/
def pivotsFrom (Red : List Nat) : Nat → Nat → List Nat → List Nat
  | 0, _, piv => piv
  | n + 1, j, piv =>
    if piv.length = Red.length then piv
    else if isBasisColumn Red j piv.length then pivotsFrom Red n (j + 1) (piv ++ [j])
    else pivotsFrom Red n (j + 1) piv

/-- What `xrref` returns: the transform P, the reduced matrix and the pivot columns (42_matrix.md R350). -/
structure Xrref where
  P : List Nat
  red : List Nat
  piv : List Nat
deriving DecidableEq, Repr

/-- xrref(M) for a k×n matrix (42_matrix.md R350). -/
def xrref (n : Nat) (M : List Nat) : Xrref :=
  let A := rref (n + M.length) (augment n M)
  let red := A.map fun a => a % 2 ^ n
  { P := A.map fun a => a >>> n, red := red, piv := pivotsFrom red n 0 [] }

/-- The n×k matrix E with a 1 at (piv[i], i) for each i (42_matrix.md R360). -/
def pivotPlacement (n : Nat) (piv : List Nat) : List Nat :=
  (List.range piv.length).foldl (fun E i => E.set (row piv i) (row E (row piv i) ||| (1 <<< i))) (List.replicate n 0)

/-- R = matmul2(E, P), the right inverse of a k×n matrix of full row rank (42_matrix.md R360, 90_conflicts.md C1). -/
def rightInverse (n : Nat) (x : Xrref) : List Nat := matmul2 (pivotPlacement n x.piv) x.P

/-- The columns of [0, n) not in piv, in increasing order (42_matrix.md R370). -/
def freeColumns (n : Nat) (piv : List Nat) : List Nat := (List.range n).filter fun j => !piv.contains j

/-- The bits of a null row on the pivot columns: bit piv[r] is Red[r][f], for r < m (42_matrix.md R370). -/
def nullPivotBits (x : Xrref) (f : Nat) : Nat → Nat
  | 0 => 0
  | r + 1 =>
    if entry x.red r f then nullPivotBits x f r ||| (1 <<< row x.piv r) else nullPivotBits x f r

/-- The null matrix of a k×n matrix of full row rank: row i has a 1 at free[i] and Red[r][free[i]] at piv[r]
(42_matrix.md R370). -/
def nullMatrix (n : Nat) (x : Xrref) : List Nat :=
  (freeColumns n x.piv).map fun f => (1 <<< f) ||| nullPivotBits x f x.piv.length

end Sys2Proof.Machine
end

