-- ==== Sys2Proof/Machine/Operands.lean ====
section
/-! DEFINITION. How a command reads its operands: a general register as a word, a bit polynomial, an unsigned or a
signed integer or a field element (00_scope.md R13, 30_encoding.md R158), and the input matrix (42_matrix.md R331, R332);
and the checks the field and matrix families share (41_field.md R251 to R253). -/

namespace Sys2Proof.Machine

/-- G[r] (10_state.md R52). -/
def State.reg (s : State) (r : Reg) : Word := s.g[r]

/-- G[r] read as a bit polynomial or as an unsigned integer (00_scope.md R13). -/
def State.poly (s : State) (r : Reg) : Nat := (s.reg r).toNat

/-- G[r] read as a two's-complement integer (00_scope.md R13). -/
def State.signed (s : State) (r : Reg) : Int := (s.reg r).toInt

/-- K of the field context, as a number (10_state.md R61). -/
def FieldCtx.degree (f : FieldCtx) : Nat := f.k.toNat

/-- The modulus m of the field context, as a polynomial (10_state.md R62). -/
def FieldCtx.mod (f : FieldCtx) : Nat := f.modulus.toNat

/-- A value is a field element: its degree is below K, that is, it is below 2^K (41_field.md R251). -/
def FieldCtx.isElement (f : FieldCtx) (a : Nat) : Bool := a < 2 ^ f.degree

/-- The check of a field command on its field-element operands: ENOFIELD, then ERANGE for each in turn
(41_field.md R251 to R253, 60_exceptions.md R403). -/
def FieldCtx.operandError (f : FieldCtx) (operands : List Nat) : Option ErrorCode :=
  if f.fv then (if operands.all f.isElement then none else some .erange) else some .enofield

/-- Row r of bank b (10_state.md R70). -/
def State.bankRow (s : State) (b : Fin 4) (r : Fin 64) : Word := (s.banks[b])[r]

/-- BDIMb (10_state.md R71). -/
def State.dim (s : State) (b : Fin 4) : Dim := s.dims[b]

/-- The r×c matrix at the top left of bank b: bits at columns c and above and rows from r on are ignored
(42_matrix.md R332). -/
def State.bankMatrix (s : State) (b : Fin 4) (r c : Nat) : List Nat :=
  ((s.banks[b]).toList.take r).map fun v => v.toNat % 2 ^ c

/-- The dimensions k = BDIM0.ROWS and n = BDIM0.COLS, when both are 1 to 64 (42_matrix.md R331). -/
def State.inputDims (s : State) : Option (Nat × Nat) :=
  let k := (s.dim 0).rows.toNat
  let n := (s.dim 0).cols.toNat
  if 1 ≤ k ∧ k ≤ 64 ∧ 1 ≤ n ∧ n ≤ 64 then some (k, n) else none

end Sys2Proof.Machine
end

