-- ==== Sys2Proof/Machine/Ops.lean ====
section
/-! DEFINITION. The operations the commands share: writing a destination (00_scope.md R12), the hidden caches
(10_state.md R80 to R85), and the completion of a command with and without an error (60_exceptions.md R410, R411).
Completion with an error is what this core has in place of taking an exception; there is no return from one (R400, R422). -/

namespace Sys2Proof.Machine

/-- `G[r] <- v` (00_scope.md R12). -/
def State.setReg (s : State) (r : Reg) (v : Word) : State := { s with g := s.g.set r.val v r.isLt }

/-- `G[r] <- a` for a result `a` the command's rule keeps below 2^64 (40_ring.md R245). -/
def State.setPoly (s : State) (r : Reg) (a : Nat) : State := s.setReg r (BitVec.ofNat 64 a)

/-- Write the field context (41_field.md R255). -/
def State.setField (s : State) (f : FieldCtx) : State := { s with field := f }

/-- Write a bank dimension register (10_state.md R71). -/
def State.setDim (s : State) (b : Fin 4) (d : Dim) : State := { s with dims := s.dims.set b.val d b.isLt }

/-- Write one row of a bank (00_scope.md R12). -/
def State.setBankRow (s : State) (b : Fin 4) (r : Fin 64) (v : Word) : State :=
  { s with banks := s.banks.set b.val ((s.banks[b]).set r.val v r.isLt) b.isLt }

/-- Write all 64 rows of a bank. -/
def State.setBank (s : State) (b : Fin 4) (m : Bank) : State := { s with banks := s.banks.set b.val m b.isLt }

/-- The 64 rows that hold the r×c matrix A and 0 beyond it (42_matrix.md R333). -/
def bankOf (r c : Nat) (A : List Nat) : Bank :=
  Vector.ofFn fun i : Fin 64 => if i.val < r then BitVec.ofNat 64 (row A i.val % 2 ^ c) else 0

/-- Write the r×c matrix A to bank b, all 64 rows and BDIMb (42_matrix.md R333). -/
def State.writeMatrix (s : State) (b : Fin 4) (r c : Nat) (A : List Nat) : State :=
  (s.setBank b (bankOf r c A)).setDim b (Dim.ofNats r c)

/-- Write PIVCNT and PIVOT: the list, then 0 (42_matrix.md R352). -/
def State.setPivots (s : State) (piv : List Nat) : State :=
  { s with
    pivCnt := BitVec.ofNat 7 piv.length
    piv := Vector.ofFn fun i : Fin 64 => BitVec.ofNat 6 (piv.getD i.val 0) }

/-- Write CONJCNT and CONJ: the sequence, then 0 (41_field.md R286). -/
def State.setConj (s : State) (seq : List Nat) : State :=
  { s with
    conjCnt := BitVec.ofNat 5 seq.length
    conj := Vector.ofFn fun i : Fin 16 => BitVec.ofNat 64 (seq.getD i.val 0) }

/-- Every entry of all four caches becomes invalid (10_state.md R85). -/
def State.flushCaches (s : State) : State := { s with caches := Caches.empty }

/-- Which of the hidden caches a command may use (40_ring.md R205; 41_field.md R260, R265, R270, R280). -/
structure CacheUse where
  mul : Bool
  inv : Bool
  log : Bool
  red : Bool
deriving DecidableEq, Repr

/-- PDIVMOD and PGCD divide: the reduction cache only (40_ring.md R205, R221; DEDUCED, log 8; safe). -/
def CacheUse.division : CacheUse := { mul := false, inv := false, log := false, red := true }

/-- Commands that multiply in the field (41_field.md R260): the multiply and reduction caches. -/
def CacheUse.multiply : CacheUse := { mul := true, inv := false, log := false, red := true }

/-- Commands that invert in the field and may multiply (41_field.md R265, R268, R270). -/
def CacheUse.inverse : CacheUse := { mul := true, inv := true, log := false, red := true }

/-- FLOG and FLOG.P (41_field.md R280). -/
def CacheUse.logarithm : CacheUse := { mul := true, inv := false, log := true, red := true }

/-- The entries of the multiply cache at draw `n`: at most CACHE_MUL, each key two field elements, each value fmul's
(10_state.md R80, R84). Which keys is the implementation's (DESIGN CHOICE, log 7; safe). -/
def mulEntries (f : FieldCtx) (n : Nat) : List MulEntry :=
  (((Config.mulKeys n).filter fun k => f.isElement k.1 && f.isElement k.2).take Config.cacheMul).map fun k =>
    { a := k.1, b := k.2, value := fmul f.mod k.1 k.2 }

/-- The entries of the inverse cache at draw `n` (10_state.md R81, R84; DESIGN CHOICE, log 7; safe). -/
def invEntries (f : FieldCtx) (n : Nat) : List InvEntry :=
  (((Config.invKeys n).filter fun a => f.isElement a).take Config.cacheInv).map fun a =>
    { a := a, value := finv f.mod a }

/-- The entries of the logarithm cache at draw `n` (10_state.md R82, R84; DESIGN CHOICE, log 7; safe). -/
def logEntries (f : FieldCtx) (n : Nat) : List LogEntry :=
  (((Config.logKeys n).filter fun k => f.isElement k.1 && f.isElement k.2).take Config.cacheLog).map fun k =>
    { x := k.1, base := k.2, value := flog f.mod f.degree k.1 k.2 }

/-- The entries of the reduction cache at draw `n`: keys of two 64-bit polynomials, the divisor not 0
(10_state.md R83, R84; DESIGN CHOICE, log 7; safe). -/
def redEntries (n : Nat) : List RedEntry :=
  (((Config.redKeys n).filter fun k => k.1 < 2 ^ 64 && k.2 < 2 ^ 64 && k.2 != 0).take Config.cacheRed).map fun k =>
    { a := k.1, b := k.2, quot := (pdivmod k.1 k.2).1, rem := (pdivmod k.1 k.2).2 }

/-- What a command that used the caches of `u` leaves in them: the entries the implementation-defined policy keeps, each
with the value its function gives (10_state.md R80 to R84). No result depends on it (R84). One draw (log 6). -/
def State.useCaches (s : State) (u : CacheUse) : State :=
  { s with
    caches :=
      { mul := if u.mul then mulEntries s.field s.draws else s.caches.mul
        inv := if u.inv then invEntries s.field s.draws else s.caches.inv
        log := if u.log then logEntries s.field s.draws else s.caches.log
        red := if u.red then redEntries s.draws else s.caches.red }
    draws := s.draws + 1 }

/-- The completion event without an error of a command with opcode `op` (60_exceptions.md R411), after its destinations
are written: STATUS, BUSY <- 0, CMD_COUNT + 1. STATUS.FV is the field context's valid bit by its view. -/
def State.completeOk (s : State) (op : BitVec 8) (nf : Bool) : State :=
  { s with status := s.status.completedOk op nf, busy := none, cmdCount := s.cmdCount + 1 }

/-- The completion event with error `e` of a command with opcode `op` (60_exceptions.md R410): no destination is
written, STATUS records the error. -/
def State.completeError (s : State) (op : BitVec 8) (e : ErrorCode) : State :=
  { s with status := s.status.completedError op e, busy := none, cmdCount := s.cmdCount + 1 }

/-- The outcome of a command: every command answers a next state (60_exceptions.md R400, R406). -/
abbrev Result := Host.Outcome State Fault Refusal

/-- A field command with opcode `op`: the shared operand check (41_field.md R251 to R253), then `body`. -/
def State.withElements (s : State) (op : BitVec 8) (operands : List Nat) (body : Result) : Result :=
  match s.field.operandError operands with
  | some e => .next (s.completeError op e)
  | none => body

/-- A matrix command with opcode `op`: the dimension check (42_matrix.md R331), then `body k n M` on the input matrix
(R332). -/
def State.withInput (s : State) (op : BitVec 8) (body : Nat → Nat → List Nat → Result) : Result :=
  match s.inputDims with
  | none => .next (s.completeError op .edim)
  | some (k, n) => body k n (s.bankMatrix 0 k n)

/-- Completion of an illegal command word `w`: EILL, no operand read, no destination written, LASTOP <- w[7:0]
(60_exceptions.md R402, R410). -/
def State.completeIllegal (s : State) (w : Word) : State := s.completeError (BitVec.ofNat 8 (bits w 7 0)) .eill

end Sys2Proof.Machine
end

