-- ==== Sys2Proof/Machine/Field.lean ====
section
/-! DEFINITION. The extension-field commands (41_field.md). -/

namespace Sys2Proof.Machine

/-- The field context that a good configuration writes (41_field.md R255): FIELD_PRIM is X mod m (10_state.md R63). -/
def configuredField (k m : Nat) : FieldCtx :=
  { fv := true, k := BitVec.ofNat 5 k, modulus := BitVec.ofNat 64 m, prim := BitVec.ofNat 64 (pdivmod 2 m).2,
    order := BitVec.ofNat 64 (2 ^ k) }

/-- FCFG and FCFG.D after the check (41_field.md R255): the caches are invalidated in both cases; a good configuration
writes the field context, a bad one leaves no field and ends with ECONFIG. -/
def State.configure (s : State) (op : BitVec 8) (good : Bool) (k m : Nat) : State :=
  if good then ((s.flushCaches.setField (configuredField k m)).completeOk op false)
  else ((s.flushCaches.setField FieldCtx.invalid).completeError op .econfig)

/-- FCFG (41_field.md R255): K is 1 to 16 and the modulus has degree K. -/
def execFcfg (rs1 rs2 : Reg) (s : State) : Result :=
  let k := s.poly rs1
  let m := s.poly rs2
  .next (s.configure 0x20 (1 ≤ k ∧ k ≤ 16 ∧ deg m = k) k m)

/-- FCFG.D (41_field.md R255): K is 1 to 16; the modulus is DEFAULT[K]. -/
def execFcfgD (rs1 : Reg) (s : State) : Result :=
  let k := s.poly rs1
  .next (s.configure 0x20 (1 ≤ k ∧ k ≤ 16) k (defaultModulus k))

/-- FADD (41_field.md R258). -/
def execFadd (rd rs1 rs2 : Reg) (s : State) : Result :=
  s.withElements 0x21 [s.poly rs1, s.poly rs2]
    (.next ((s.setReg rd (s.reg rs1 ^^^ s.reg rs2)).completeOk 0x21 false))

/-- FMUL (41_field.md R261). -/
def execFmul (rd rs1 rs2 : Reg) (s : State) : Result :=
  s.withElements 0x22 [s.poly rs1, s.poly rs2]
    (.next (((s.useCaches CacheUse.multiply).setPoly rd (fmul s.field.mod (s.poly rs1) (s.poly rs2))).completeOk 0x22
      false))

/-- FINV (41_field.md R266): EDIVZERO when the element has no inverse. -/
def execFinv (rd rs1 : Reg) (s : State) : Result :=
  s.withElements 0x23 [s.poly rs1]
    (match finv s.field.mod (s.poly rs1) with
    | none => .next ((s.useCaches CacheUse.inverse).completeError 0x23 .edivzero)
    | some v => .next (((s.useCaches CacheUse.inverse).setPoly rd v).completeOk 0x23 false))

/-- FDIV (41_field.md R268): EDIVZERO when the divisor has no inverse. -/
def execFdiv (rd rs1 rs2 : Reg) (s : State) : Result :=
  s.withElements 0x24 [s.poly rs1, s.poly rs2]
    (match finv s.field.mod (s.poly rs2) with
    | none => .next ((s.useCaches CacheUse.inverse).completeError 0x24 .edivzero)
    | some v =>
      .next (((s.useCaches CacheUse.inverse).setPoly rd (fmul s.field.mod (s.poly rs1) v)).completeOk 0x24 false))

/-- FPOW (41_field.md R271): the exponent signed; EDIVZERO when it is negative and the element has no inverse. -/
def execFpow (rd rs1 rs2 : Reg) (s : State) : Result :=
  s.withElements 0x25 [s.poly rs1]
    (match fpow s.field.mod (s.poly rs1) (s.signed rs2) with
    | none => .next ((s.useCaches CacheUse.inverse).completeError 0x25 .edivzero)
    | some v => .next (((s.useCaches CacheUse.inverse).setPoly rd v).completeOk 0x25 false))

/-- FLOG and FLOG.P after the check (41_field.md R280): the exponent and NF <- 0, or NF <- 1 and rd not written. -/
def State.logarithm (s : State) (rd : Reg) (x base : Nat) : State :=
  match flog s.field.mod s.field.degree x base with
  | some i => ((s.useCaches CacheUse.logarithm).setPoly rd i).completeOk 0x26 false
  | none => (s.useCaches CacheUse.logarithm).completeOk 0x26 true

/-- FLOG (41_field.md R280). -/
def execFlog (rd rs1 rs2 : Reg) (s : State) : Result :=
  s.withElements 0x26 [s.poly rs1, s.poly rs2] (.next (s.logarithm rd (s.poly rs1) (s.poly rs2)))

/-- FLOG.P (41_field.md R280): the base is FIELD_PRIM, which is not range-checked. -/
def execFlogP (rd rs1 : Reg) (s : State) : Result :=
  s.withElements 0x26 [s.poly rs1] (.next (s.logarithm rd (s.poly rs1) s.field.prim.toNat))

/-- FCONJ (41_field.md R286): EOVF when the orbit needs a 17th element. -/
def execFconj (rs1 : Reg) (s : State) : Result :=
  s.withElements 0x27 [s.poly rs1]
    (match conjSeq s.field.mod (s.poly rs1) with
    | none => .next ((s.useCaches CacheUse.multiply).completeError 0x27 .eovf)
    | some seq => .next (((s.useCaches CacheUse.multiply).setConj seq).completeOk 0x27 false))

/-- FMINP (41_field.md R292): EOVF as FCONJ, then ENOTBIN when a coefficient is not 0 or 1. -/
def execFminp (rd rs1 : Reg) (s : State) : Result :=
  s.withElements 0x28 [s.poly rs1]
    (match conjSeq s.field.mod (s.poly rs1) with
    | none => .next ((s.useCaches CacheUse.multiply).completeError 0x28 .eovf)
    | some cs =>
      let p := minpolyCoeffs s.field.mod cs
      if binaryCoeffs p then .next (((s.useCaches CacheUse.multiply).setPoly rd (packCoeffs p)).completeOk 0x28 false)
      else .next ((s.useCaches CacheUse.multiply).completeError 0x28 .enotbin))

/-- FEVAL (41_field.md R300): only the point is range-checked. -/
def execFeval (rd rs1 rs2 : Reg) (s : State) : Result :=
  s.withElements 0x29 [s.poly rs2]
    (.next (((s.useCaches CacheUse.multiply).setPoly rd (feval s.field.mod (s.poly rs1) (s.poly rs2))).completeOk 0x29
      false))

end Sys2Proof.Machine
end

