-- ==== Sys2Proof/Machine/Matrix.lean ====
section
/-! DEFINITION. The mod-2 matrix commands (42_matrix.md): BANK0 and BDIM0 in, BANK1 to BANK3 out. They read no general
register and use no cache (R330). -/

namespace Sys2Proof.Machine

/-- MRREF (42_matrix.md R341): rref(M) to bank 1. -/
def execMrref (s : State) : Result :=
  s.withInput 0x30 fun k n M => .next ((s.writeMatrix 1 k n (rref n M)).completeOk 0x30 false)

/-- MXRREF (42_matrix.md R352): the reduced matrix to bank 1, the transform to bank 2, the pivot columns. -/
def execMxrref (s : State) : Result :=
  s.withInput 0x31 fun k n M =>
    let x := xrref n M
    .next ((((s.writeMatrix 1 k n x.red).writeMatrix 2 k k x.P).setPivots x.piv).completeOk 0x31 false)

/-- MRINV (42_matrix.md R360): the n×k right inverse to bank 3; ERANK below full row rank. -/
def execMrinv (s : State) : Result :=
  s.withInput 0x32 fun k n M =>
    let x := xrref n M
    if x.piv.length < k then .next (s.completeError 0x32 .erank)
    else .next ((s.writeMatrix 3 n k (rightInverse n x)).completeOk 0x32 false)

/-- MNULL (42_matrix.md R370): the (n-k)×n null matrix to bank 3; ERANK below full row rank. -/
def execMnull (s : State) : Result :=
  s.withInput 0x33 fun k n M =>
    let x := xrref n M
    if x.piv.length < k then .next (s.completeError 0x33 .erank)
    else .next ((s.writeMatrix 3 (n - k) n (nullMatrix n x)).completeOk 0x33 false)

end Sys2Proof.Machine
end

