-- ==== Sys2Proof/Machine/Ring.lean ====
section
/-! DEFINITION. The polynomial ring commands (40_ring.md). They need no field (R205) and write NF <- 0. -/

namespace Sys2Proof.Machine

/-- PADD (40_ring.md R200). -/
def execPadd (rd rs1 rs2 : Reg) (s : State) : Result :=
  .next ((s.setReg rd (s.reg rs1 ^^^ s.reg rs2)).completeOk 0x10 false)

/-- PMUL (40_ring.md R211): EOVF when the product has degree above 63. -/
def execPmul (rd rs1 rs2 : Reg) (s : State) : Result :=
  let p := clmul (s.poly rs1) (s.poly rs2)
  if deg p > 63 then .next (s.completeError 0x11 .eovf)
  else .next ((s.setPoly rd p).completeOk 0x11 false)

/-- PDIVMOD (40_ring.md R221): quotient to rd, remainder to rd2; EDIVZERO when the divisor is 0. -/
def execPdivmod (rd rd2 rs1 rs2 : Reg) (s : State) : Result :=
  if s.poly rs2 = 0 then .next (s.completeError 0x12 .edivzero)
  else
    let qr := pdivmod (s.poly rs1) (s.poly rs2)
    .next ((((s.useCaches CacheUse.division).setPoly rd qr.1).setPoly rd2 qr.2).completeOk 0x12 false)

/-- PDEG (40_ring.md R225): the degree as a 64-bit two's-complement value, -1 for 0. -/
def execPdeg (rd rs1 : Reg) (s : State) : Result :=
  .next ((s.setReg rd (BitVec.ofInt 64 (deg (s.poly rs1)))).completeOk 0x13 false)

/-- PGCD (40_ring.md R231): d to rd, s to rd2, t to rd3. The spec's bound says no value exceeds 64 bits (R232; log 21). -/
def execPgcd (rd rd2 rd3 rs1 rs2 : Reg) (s : State) : Result :=
  let dst := egcd (s.poly rs1) (s.poly rs2)
  .next
    (((((s.useCaches CacheUse.division).setPoly rd dst.1).setPoly rd2 dst.2.1).setPoly rd3 dst.2.2).completeOk 0x14
      false)

/-- PPOW (40_ring.md R241): the exponent unsigned; EOVF when a ≠ 0, n ≥ 1 and deg(a)·n > 63. -/
def execPpow (rd rs1 rs2 : Reg) (s : State) : Result :=
  let a := s.poly rs1
  let n := s.poly rs2
  if a ≠ 0 ∧ 1 ≤ n ∧ deg a * n > 63 then .next (s.completeError 0x15 .eovf)
  else .next ((s.setPoly rd (powSq clmul 1 a n)).completeOk 0x15 false)

end Sys2Proof.Machine
end

