-- ==== Sys2Proof/Machine/System.lean ====
section
/-! DEFINITION. The system command (43_system.md). -/

namespace Sys2Proof.Machine

/-- CFLUSH (43_system.md R380): every entry of the four caches becomes invalid; nothing else is written. -/
def execCflush (s : State) : Result := .next (s.flushCaches.completeOk 0x01 false)

end Sys2Proof.Machine
end

