-- ==== Sys2Proof/Machine/Dispatch.lean ====
section
/-! DEFINITION. One arm per command: its meaning, the completion of the command (60_exceptions.md R406, R410, R411). -/

namespace Sys2Proof.Machine

def exec (i : Instr) (s : State) : Host.Outcome State Fault Refusal :=
  match i with
  | .cflush => Sys2Proof.Machine.execCflush s
  | .padd rd rs1 rs2 => Sys2Proof.Machine.execPadd rd rs1 rs2 s
  | .pmul rd rs1 rs2 => Sys2Proof.Machine.execPmul rd rs1 rs2 s
  | .pdivmod rd rd2 rs1 rs2 => Sys2Proof.Machine.execPdivmod rd rd2 rs1 rs2 s
  | .pdeg rd rs1 => Sys2Proof.Machine.execPdeg rd rs1 s
  | .pgcd rd rd2 rd3 rs1 rs2 => Sys2Proof.Machine.execPgcd rd rd2 rd3 rs1 rs2 s
  | .ppow rd rs1 rs2 => Sys2Proof.Machine.execPpow rd rs1 rs2 s
  | .fcfg rs1 rs2 => Sys2Proof.Machine.execFcfg rs1 rs2 s
  | .fcfgD rs1 => Sys2Proof.Machine.execFcfgD rs1 s
  | .fadd rd rs1 rs2 => Sys2Proof.Machine.execFadd rd rs1 rs2 s
  | .fmul rd rs1 rs2 => Sys2Proof.Machine.execFmul rd rs1 rs2 s
  | .finv rd rs1 => Sys2Proof.Machine.execFinv rd rs1 s
  | .fdiv rd rs1 rs2 => Sys2Proof.Machine.execFdiv rd rs1 rs2 s
  | .fpow rd rs1 rs2 => Sys2Proof.Machine.execFpow rd rs1 rs2 s
  | .flog rd rs1 rs2 => Sys2Proof.Machine.execFlog rd rs1 rs2 s
  | .flogP rd rs1 => Sys2Proof.Machine.execFlogP rd rs1 s
  | .fconj rs1 => Sys2Proof.Machine.execFconj rs1 s
  | .fminp rd rs1 => Sys2Proof.Machine.execFminp rd rs1 s
  | .feval rd rs1 rs2 => Sys2Proof.Machine.execFeval rd rs1 rs2 s
  | .mrref => Sys2Proof.Machine.execMrref s
  | .mxrref => Sys2Proof.Machine.execMxrref s
  | .mrinv => Sys2Proof.Machine.execMrinv s
  | .mnull => Sys2Proof.Machine.execMnull s

end Sys2Proof.Machine
end

