-- ==== Sys2Proof/Machine/Port.lean ====
section
/-! DEFINITION. The host port (20_memory.md R100 to R116): the address map, reads and writes idle and busy
(70_reset_and_hazards.md R461, R462), acceptance of a command (60_exceptions.md R405), the byte-bus bridge
(20_memory.md R112, R113) and the other actions of the host and the platform. -/

namespace Sys2Proof.Machine

/-- What stands at a word of the port space (20_memory.md R101). -/
inductive PortWord where
  | id
  | cmd
  | status
  | ctrl
  | cmdCount
  | fieldK
  | fieldMod
  | fieldPrim
  | fieldOrder
  | pivCnt
  | conjCnt
  | bdim (b : Fin 4)
  | g (r : Reg)
  | pivot (i : Fin 64)
  | conj (i : Fin 16)
  | bank (b : Fin 4) (r : Fin 64)
  | reserved
deriving DecidableEq, Repr

/-- The address map (20_memory.md R101). -/
def portWord (i : BitVec 12) : PortWord :=
  let n := i.toNat
  if n = 0x000 then .id
  else if n = 0x001 then .cmd
  else if n = 0x002 then .status
  else if n = 0x003 then .ctrl
  else if n = 0x004 then .cmdCount
  else if n = 0x005 then .fieldK
  else if n = 0x006 then .fieldMod
  else if n = 0x007 then .fieldPrim
  else if n = 0x008 then .fieldOrder
  else if n = 0x009 then .pivCnt
  else if n = 0x00A then .conjCnt
  else if 0x00C ≤ n ∧ n ≤ 0x00F then .bdim (Fin.ofNat 4 (n - 0x00C))
  else if 0x010 ≤ n ∧ n ≤ 0x017 then .g (Fin.ofNat 8 (n - 0x010))
  else if 0x040 ≤ n ∧ n ≤ 0x07F then .pivot (Fin.ofNat 64 (n - 0x040))
  else if 0x080 ≤ n ∧ n ≤ 0x08F then .conj (Fin.ofNat 16 (n - 0x080))
  else if 0x100 ≤ n ∧ n ≤ 0x1FF then .bank (Fin.ofNat 4 ((n - 0x100) / 64)) (Fin.ofNat 64 ((n - 0x100) % 64))
  else .reserved

/-- ID: "KOMM", revision 1 (10_state.md R51). -/
def idWord : Word := 0x4B4F4D4D00000001#64

/-- The value of a port word while the core is idle (10_state.md R51 to R73, 20_memory.md R102, R103). -/
def State.wordValue (s : State) : PortWord → Word
  | .id => idWord
  | .cmd => 0
  | .status => s.statusWord
  | .ctrl => s.ctrlWord
  | .cmdCount => s.cmdCount
  | .fieldK => s.field.k.zeroExtend 64
  | .fieldMod => s.field.modulus
  | .fieldPrim => s.field.prim
  | .fieldOrder => s.field.order
  | .pivCnt => s.pivCnt.zeroExtend 64
  | .conjCnt => s.conjCnt.zeroExtend 64
  | .bdim b => (s.dim b).toWord
  | .g r => s.reg r
  | .pivot i => (s.piv[i]).zeroExtend 64
  | .conj i => s.conj[i]
  | .bank b r => s.bankRow b r
  | .reserved => 0

/-- The words whose read is defined while the core is busy (70_reset_and_hazards.md R461). -/
def PortWord.definedWhileBusy : PortWord → Bool
  | .id => true
  | .cmd => true
  | .status => true
  | .ctrl => true
  | .cmdCount => true
  | .reserved => true
  | .fieldK => false
  | .fieldMod => false
  | .fieldPrim => false
  | .fieldOrder => false
  | .pivCnt => false
  | .conjCnt => false
  | .bdim _ => false
  | .g _ => false
  | .pivot _ => false
  | .conj _ => false
  | .bank _ _ => false

/-- A read of word index `i` is a draw: the core is busy and the word holds operands or results
(70_reset_and_hazards.md R461). -/
def State.readIsDraw (s : State) (i : BitVec 12) : Bool := s.busy.isSome && !(portWord i).definedWhileBusy

/-- `PortRead(i)`: the value returned (20_memory.md R110; 70_reset_and_hazards.md R461, log 3). -/
def State.portRead (s : State) (i : BitVec 12) : Word :=
  if s.readIsDraw i then Config.busyRead s.draws else s.wordValue (portWord i)

/-- What a port read leaves: no state of the core changes (20_memory.md R114, 70_reset_and_hazards.md R461); a read that
was a draw uses one up. -/
def State.afterRead (s : State) (i : BitVec 12) : State :=
  if s.readIsDraw i then { s with draws := s.draws + 1 } else s

/-- A host write refused because the core is busy: COLL <- 1 and nothing else (70_reset_and_hazards.md R462). -/
def State.collide (s : State) : State := { s with status := s.status.collided }

/-- Acceptance of a CMD write `w` (60_exceptions.md R405): the core holds w, BUSY <- 1, DONE <- 0; nothing else of the
core changes. The latency is drawn here (log 2). -/
def State.accept (s : State) (w : Word) : State :=
  { s with
    busy := some w
    status := s.status.accepted
    delay :=
      Config.latency s.draws w s.g s.field.fv s.field.k s.field.modulus s.field.prim s.field.order (s.dim 0).rows
        (s.dim 0).cols (s.banks[0]) s.caches
    draws := s.draws + 1 }

/-- A CTRL write, busy or idle (10_state.md R55): IE <- bit 0, bit 1 clears DONE, bit 2 clears ERRACC and COLL. -/
def State.writeCtrl (s : State) (v : Word) : State :=
  { s with ie := v.getLsbD 0, status := s.status.ctrlCleared (v.getLsbD 1) (v.getLsbD 2) }

/-- A write that is refused while the core is busy (70_reset_and_hazards.md R462). -/
def State.whenIdle (s : State) (t : State) : State := if s.busy.isSome then s.collide else t

/-- `PortWrite(i, v)` on the word it reaches (20_memory.md R101 to R103, 70_reset_and_hazards.md R462). -/
def State.writeWord (s : State) (v : Word) : PortWord → State
  | .cmd => s.whenIdle (s.accept v)
  | .ctrl => s.writeCtrl v
  | .bdim b => if b = 0 then s.whenIdle (s.setDim 0 (Dim.ofWord v)) else s
  | .g r => s.whenIdle (s.setReg r v)
  | .bank b r => if b = 0 then s.whenIdle (s.setBankRow 0 r v) else s
  | .id => s
  | .status => s
  | .cmdCount => s
  | .fieldK => s
  | .fieldMod => s
  | .fieldPrim => s
  | .fieldOrder => s
  | .pivCnt => s
  | .conjCnt => s
  | .pivot _ => s
  | .conj _ => s
  | .reserved => s

/-- `PortWrite(i, v)` (20_memory.md R110). -/
def State.portWrite (s : State) (i : BitVec 12) (v : Word) : State := s.writeWord v (portWord i)

/-- The eight bytes of a word, lowest address first: byte j carries bits 8j+7 to 8j (20_memory.md R112). -/
def wordBytes (v : Word) : List Byte := (List.range 8).map fun j => BitVec.ofNat 8 (v.toNat / 2 ^ (8 * j))

/-- The word whose bytes are `bs`, lowest address first (20_memory.md R112). -/
def bytesWord : List Byte → Nat
  | [] => 0
  | b :: bs => b.toNat + 256 * bytesWord bs

/-- The word index of an aligned byte address (20_memory.md R112: index i is bytes 8i to 8i+7). -/
def busIndex (addr : BitVec 15) : BitVec 12 := BitVec.ofNat 12 (addr.toNat / 8)

/-- The bridge forwards only 8-byte accesses at addresses that are multiples of 8 (20_memory.md R113). -/
def busForwarded (addr : BitVec 15) (width : Nat) : Bool := addr.toNat % 8 == 0 && width == 8

/-- The state with `r` added to what the host's reads returned. -/
def State.reply (s : State) (r : HostReply) : State := { s with replies := r :: s.replies }

/-- A port read with its reply logged. -/
def State.hostRead (s : State) (i : BitVec 12) : State := (s.afterRead i).reply (.word i (s.portRead i))

/-- The word index of STATUS (20_memory.md R101). -/
def statusIndex : BitVec 12 := 0x002

/-- Reset asserted while the rest of the run is still to come (70_reset_and_hazards.md R450): every field of the core
takes its reset value, a command in flight is abandoned. What the host has still to do and has read stays (log 22).
Applying and releasing reset is one event, and no host access falls inside it (DESIGN CHOICE, log 25; unsafe). -/
def State.assertReset (s : State) : State :=
  { State.atReset s.draws with pending := s.pending, replies := s.replies }

/-- The next action of the host or the platform. With none pending, an idle core waits: all state survives
(60_exceptions.md R406, R435; log 13). -/
def State.hostStep (s : State) : Result :=
  match s.pending with
  | [] => .next s
  | op :: rest =>
    let t := { s with pending := rest }
    match op with
    | .read i => .next (t.hostRead i)
    | .write i v => .next (t.portWrite i v)
    | .wait => if s.busy.isSome then .next (s.hostRead statusIndex) else .next (t.hostRead statusIndex)
    | .busRead a n =>
      if busForwarded a n then
        .next ((t.afterRead (busIndex a)).reply (.bytes a (wordBytes (t.portRead (busIndex a)))))
      else .refused .busAccessNotForwarded
    | .busWrite a bs =>
      if busForwarded a bs.length then .next (t.portWrite (busIndex a) (BitVec.ofNat 64 (bytesWord bs)))
      else .refused .busAccessNotForwarded
    | .reset => .next t.assertReset

end Sys2Proof.Machine
end

