-- ==== Sys2Proof/Machine/Step.lean ====
section
/-! DEFINITION. One step of the machine: either the core completes the command it holds, or the next action of the host
happens (20_memory.md R120, 60_exceptions.md R406). -/

namespace Sys2Proof.Machine

/-- The core's step on the CMD write it holds: the command, or EILL for an illegal word (60_exceptions.md R402, R406). -/
def State.coreStep (s : State) (w : Word) : Host.Outcome State Fault Refusal :=
  match decode w with
  | .ok i => exec i s
  | .error _ => .next (s.completeIllegal w)

/-- One step. A busy core completes when `delay` host actions have passed, or when the host does nothing more
(70_reset_and_hazards.md R457, R470: completion always comes); until then, and while idle, the host acts. -/
def step (s : State) : Host.Outcome State Fault Refusal :=
  match s.busy with
  | some w =>
    if s.delay = 0 ∨ s.pending = [] then s.coreStep w
    else ({ s with delay := s.delay - 1 } : State).hostStep
  | none => s.hostStep

/-- `s` with the CMD write of a table word accepted (60_exceptions.md R405) and no host action left before its
completion, so that the very next step completes it (log 1). -/
def State.withFetchWord (s : State) (nbits w : Nat) : State :=
  { s with busy := some (tableWord nbits w), status := s.status.accepted, delay := 0 }

end Sys2Proof.Machine
end

