-- ==== Sys2Proof/Safety.lean ====
section
/-! DEFINITION. The terms the claims use: how a command ends (60_exceptions.md R410, R411), what a command leaves
unchanged (20_memory.md R115), and the invariant of the core. -/

namespace Sys2Proof.Machine

/-- The command with opcode `op` ended without an error, taking `s` to `t` (60_exceptions.md R411): the fields of STATUS,
BUSY and CMD_COUNT; ERRACC and COLL unchanged. -/
def EndsOk (op : BitVec 8) (nf : Bool) (s t : State) : Prop :=
  t.busy = none ∧ t.cmdCount = s.cmdCount + 1 ∧ t.status.done = true ∧ t.status.err = false ∧ t.status.nf = nf ∧
    t.status.ecode = 0 ∧ t.status.lastOp = op ∧ t.status.errAcc = s.status.errAcc ∧ t.status.coll = s.status.coll

/-- The command with opcode `op` ended with an error of code `code`, taking `s` to `t` (60_exceptions.md R410): the fields
of STATUS, BUSY and CMD_COUNT; COLL unchanged. -/
def EndsError (op code : BitVec 8) (s t : State) : Prop :=
  t.busy = none ∧ t.cmdCount = s.cmdCount + 1 ∧ t.status.done = true ∧ t.status.err = true ∧ t.status.nf = false ∧
    t.status.ecode = code ∧ t.status.lastOp = op ∧ t.status.errAcc = true ∧ t.status.coll = s.status.coll

/-- Every general register but those of `rs` is unchanged. -/
def SameRegsBut (rs : List Reg) (s t : State) : Prop := ∀ r, r ∉ rs → t.reg r = s.reg r

/-- Every bank but those of `bs` is unchanged: its dimension register and each of its 64 rows. -/
def SameBanksBut (bs : List (Fin 4)) (s t : State) : Prop :=
  ∀ b, b ∉ bs → t.dim b = s.dim b ∧ ∀ r, t.bankRow b r = s.bankRow b r

/-- The field context is unchanged. -/
def SameField (s t : State) : Prop := t.field = s.field

/-- The pivot list is unchanged. -/
def SamePivots (s t : State) : Prop := t.pivCnt = s.pivCnt ∧ ∀ i : Fin 64, t.piv[i] = s.piv[i]

/-- The conjugate list is unchanged. -/
def SameConj (s t : State) : Prop := t.conjCnt = s.conjCnt ∧ ∀ i : Fin 16, t.conj[i] = s.conj[i]

/-- The hidden caches are unchanged, and no draw was used. -/
def SameCaches (s t : State) : Prop := t.caches = s.caches ∧ t.draws = s.draws

/-- The multiply, inverse and logarithm caches are unchanged (40_ring.md R205: a ring command uses the reduction cache and
no other). -/
def SameFieldCaches (s t : State) : Prop :=
  t.caches.mul = s.caches.mul ∧ t.caches.inv = s.caches.inv ∧ t.caches.log = s.caches.log

/-- CTRL, the host's coming actions, its replies and the latency counter are unchanged. -/
def SameHost (s t : State) : Prop :=
  t.ie = s.ie ∧ t.pending = s.pending ∧ t.replies = s.replies ∧ t.delay = s.delay

/-- Of the state software can see, only the general registers of `rs` and what completion itself writes may differ. -/
def OnlyRegs (rs : List Reg) (s t : State) : Prop :=
  SameRegsBut rs s t ∧ SameField s t ∧ SameBanksBut [] s t ∧ SamePivots s t ∧ SameConj s t ∧ SameHost s t

/-- Of the state software can see, only the banks of `bs` and what completion itself writes may differ. -/
def OnlyBanks (bs : List (Fin 4)) (s t : State) : Prop :=
  SameRegsBut [] s t ∧ SameField s t ∧ SameBanksBut bs s t ∧ SamePivots s t ∧ SameConj s t ∧ SameHost s t ∧
    SameCaches s t

/-- Bank b of `t` holds the r×c matrix `A` and 0 beyond it, and BDIMb its dimensions (42_matrix.md R333). -/
def BankHolds (t : State) (b : Fin 4) (r c : Nat) (A : List Nat) : Prop :=
  (t.dim b).rows.toNat = r ∧ (t.dim b).cols.toNat = c ∧
    ∀ i : Fin 64, (t.bankRow b i).toNat = if i.val < r then row A i.val % 2 ^ c else 0

/-- The field context is as FCFG leaves it (10_state.md R60 to R64): all zero without a field; with one, K is 1 to 16, the
modulus has degree K, the order is 2^K and the primitive element is X mod m. -/
abbrev FieldOk (f : FieldCtx) : Prop :=
  (f.fv = false → f = FieldCtx.invalid) ∧
    (f.fv = true →
      1 ≤ f.degree ∧ f.degree ≤ 16 ∧ deg f.mod = f.degree ∧ f.order.toNat = 2 ^ f.degree ∧
        f.prim.toNat = (pdivmod 2 f.mod).2)

/-- Every valid cache entry holds exactly the value its function gives for its key under the current field context
(10_state.md R84), its key is of the kind R80 to R83 name, and no cache holds more entries than its size. -/
def CachesOk (f : FieldCtx) (c : Caches) : Prop :=
  (∀ e ∈ c.mul, f.fv = true ∧ e.a < 2 ^ f.degree ∧ e.b < 2 ^ f.degree ∧ e.value = fmul f.mod e.a e.b) ∧
    (∀ e ∈ c.inv, f.fv = true ∧ e.a < 2 ^ f.degree ∧ e.value = finv f.mod e.a) ∧
    (∀ e ∈ c.log, f.fv = true ∧ e.x < 2 ^ f.degree ∧ e.base < 2 ^ f.degree ∧
      e.value = flog f.mod f.degree e.x e.base) ∧
    (∀ e ∈ c.red, e.a < 2 ^ 64 ∧ e.b < 2 ^ 64 ∧ e.b ≠ 0 ∧ (e.quot, e.rem) = pdivmod e.a e.b) ∧
    c.mul.length ≤ Config.cacheMul ∧ c.inv.length ≤ Config.cacheInv ∧ c.log.length ≤ Config.cacheLog ∧
    c.red.length ≤ Config.cacheRed

/-- STATUS is consistent (10_state.md R54, 60_exceptions.md R401): DONE is 0 while busy, ECODE is one of the nine codes
exactly when ERR is 1, and NF is 0 then. -/
def StatusOk (s : State) : Prop :=
  (s.busy.isSome = true → s.status.done = false) ∧
    (s.status.err = false → s.status.ecode = 0) ∧
    (s.status.err = true → s.status.nf = false ∧ ∃ e : ErrorCode, s.status.ecode = e.code)

/-- The dimensions the core writes are at most 64 (10_state.md R71), PIVCNT is at most 64 (R72) and CONJCNT at most 16
(R73). -/
def CountsOk (s : State) : Prop :=
  (∀ b : Fin 4, b ≠ 0 → (s.dim b).rows.toNat ≤ 64 ∧ (s.dim b).cols.toNat ≤ 64) ∧ s.pivCnt.toNat ≤ 64 ∧
    s.conjCnt.toNat ≤ 16

/-- The invariant of the core. -/
def CoreInv (s : State) : Prop :=
  FieldOk s.field ∧ CachesOk s.field s.caches ∧ StatusOk s ∧ CountsOk s

/-- The core may complete the command it holds in this very step (60_exceptions.md R406). -/
abbrev Ready (s : State) : Prop := s.delay = 0 ∨ s.pending = []

/-- The next step is the host's: the core is idle, or busy and not yet to complete (20_memory.md R120). -/
abbrev HostActs (s : State) : Prop := s.busy = none ∨ ¬Ready s

/-- The state in which the host's next action takes effect: it is off the list, leaving `rest`, and while busy one action
less is to fall before the completion. -/
def State.hostTurn (s : State) (rest : List HostOp) : State :=
  { s with pending := rest, delay := if s.busy.isSome then s.delay - 1 else s.delay }

/-- No reset and no byte-bus access is pending: the host makes only whole-word port accesses. -/
def PortOnly (ops : List HostOp) : Prop :=
  ∀ op ∈ ops, (∃ i, op = .read i) ∨ (∃ i v, op = .write i v) ∨ op = .wait

/-- The general registers a command reads as field elements (41_field.md R251); none for a command that reads none. -/
def elementOperands : Instr → List Reg
  | .fadd _ rs1 rs2 => [rs1, rs2]
  | .fmul _ rs1 rs2 => [rs1, rs2]
  | .finv _ rs1 => [rs1]
  | .fdiv _ rs1 rs2 => [rs1, rs2]
  | .fpow _ rs1 _ => [rs1]
  | .flog _ rs1 rs2 => [rs1, rs2]
  | .flogP _ rs1 => [rs1]
  | .fconj rs1 => [rs1]
  | .fminp _ rs1 => [rs1]
  | .feval _ _ rs2 => [rs2]
  | .cflush => []
  | .padd _ _ _ => []
  | .pmul _ _ _ => []
  | .pdivmod _ _ _ _ => []
  | .pdeg _ _ => []
  | .pgcd _ _ _ _ _ => []
  | .ppow _ _ _ => []
  | .fcfg _ _ => []
  | .fcfgD _ => []
  | .mrref => []
  | .mxrref => []
  | .mrinv => []
  | .mnull => []

/-- Bit j of a product: the XOR over i of a[i] AND b[j-i] (40_ring.md R210). -/
def convBit (a b j : Nat) : Bool :=
  (List.range (j + 1)).foldl (fun acc i => acc ^^ (a.testBit i && b.testBit (j - i))) false

/-- The n-fold product of a polynomial, 1 for n = 0 (40_ring.md R240). -/
def polyPower (a : Nat) : Nat → Nat
  | 0 => 1
  | n + 1 => clmul (polyPower a n) a

/-- The n-fold product of a field element, 1 for n = 0 (40_ring.md R240, 41_field.md R270). -/
def fieldPower (m x : Nat) : Nat → Nat
  | 0 => 1
  | n + 1 => fmul m (fieldPower m x n) x

/-- The value x^(2^e): x squared e times in the field (41_field.md R285). -/
def frobenius (m x : Nat) : Nat → Nat
  | 0 => x
  | e + 1 => fmul m (frobenius m x e) (frobenius m x e)

/-- The XOR over i < n with p[i] = 1 of x^i in the field (41_field.md R300). -/
def sumOfPowers (m p x : Nat) : Nat → Nat
  | 0 => 0
  | i + 1 => if p.testBit i then sumOfPowers m p x i ^^^ fieldPower m x i else sumOfPowers m p x i

/-- The value at y of the polynomial with coefficient list p over the field, p[j] the coefficient of X^j
(41_field.md R291). -/
def coeffsAt (m : Nat) (p : List Nat) (y : Nat) : Nat := p.foldr (fun a r => fmul m r y ^^^ a) 0

/-- The product of y + c over all c of cs in the field (41_field.md R291). -/
def productAt (m : Nat) (cs : List Nat) (y : Nat) : Nat := cs.foldl (fun r c => fmul m r (y ^^^ c)) 1

/-- The reserved words of the port (20_memory.md R101). -/
abbrev reservedIndex (i : Nat) : Prop :=
  i = 0x00B ∨ (0x018 ≤ i ∧ i ≤ 0x03F) ∨ (0x090 ≤ i ∧ i ≤ 0x0FF) ∨ 0x200 ≤ i

/-- The read-only words of the port (20_memory.md R103). -/
abbrev readOnlyIndex (i : Nat) : Prop :=
  i = 0x000 ∨ i = 0x002 ∨ (0x004 ≤ i ∧ i ≤ 0x00A) ∨ (0x00D ≤ i ∧ i ≤ 0x00F) ∨ (0x040 ≤ i ∧ i ≤ 0x08F) ∨
    (0x140 ≤ i ∧ i ≤ 0x1FF)

/-- The words a busy core refuses writes to: CMD, BDIM0, G0 to G7, BANK0 (70_reset_and_hazards.md R462). -/
abbrev refusedWhenBusy (i : Nat) : Prop :=
  i = 0x001 ∨ i = 0x00C ∨ (0x010 ≤ i ∧ i ≤ 0x017) ∨ (0x100 ≤ i ∧ i ≤ 0x13F)

end Sys2Proof.Machine
end

