-- ==== Sys2Proof/Certificates/Slice0/Obligations.lean ====
section
/-! DEFINITION. The statements for the provers: def Obligations.<Name> : Prop, listed in OBLIGATIONS.json. -/

open Sys2Proof Sys2Proof.Machine

/-! ### The command word -/

/-- 30_encoding.md R151 to R155: decoding the encoding of a well-formed command gives the command back, with every operand
at every value. -/
def Obligations.DecodeEncodeRoundTrip : Prop :=
  ∀ i : Instr, i.wf = true → decode (encode i) = .ok i

/-- 30_encoding.md R153, R156: a word that decodes is the encoding of its command, and the command is well formed. -/
def Obligations.LegalWordReencodes : Prop :=
  ∀ (w : Word) (i : Instr), decode w = .ok i → encode i = w ∧ i.wf = true

/-- 30_encoding.md R153: a word matches at most one row of the table; a word that decodes matches the row of its
mnemonic; a word that matches a row is that row's command, or fails the destination check of R154. -/
def Obligations.WordMatchesOneTableRow : Prop :=
  ∀ w : BitVec 32,
    (∀ a ∈ opcodeTable, ∀ b ∈ opcodeTable, w &&& a.mask = a.pattern → w &&& b.mask = b.pattern → a = b) ∧
      (∀ i, decode (w.zeroExtend 64) = .ok i →
        ∃ a ∈ opcodeTable, w &&& a.mask = a.pattern ∧ a.mnemonic = i.mnemonic) ∧
      (∀ a ∈ opcodeTable, w &&& a.mask = a.pattern →
        (∃ i, decode (w.zeroExtend 64) = .ok i ∧ i.mnemonic = a.mnemonic) ∨
          (decode (w.zeroExtend 64) = .error .equalDestinations ∧
            (a.mnemonic = "PDIVMOD" ∨ a.mnemonic = "PGCD")))

/-- 30_encoding.md R159 and words of 95_test_vectors.md, one or more of each family. -/
def Obligations.SampleWordsDecode : Prop :=
  decode 0x00008B11 = .ok (.pmul 3 1 2) ∧ decode 0x000A8C12 = .ok (.pdivmod 4 5 1 2) ∧
    decode 0x00588B14 = .ok (.pgcd 3 4 5 1 2) ∧ decode 0x00800020 = .ok (.fcfgD 0) ∧
    decode 0x00800A26 = .ok (.flogP 2 1) ∧ decode 0x00000031 = .ok .mxrref ∧ decode 0x00000001 = .ok .cflush

/-- 60_exceptions.md R402: a CMD write with a bit of 63:24 set, with a reserved opcode, or that for any other reason is no
command, completes with EILL; LASTOP is its low byte and nothing else of the core is written. -/
def Obligations.IllegalWordEndsInEill : Prop :=
  ∀ (s : State) (w : Word), s.busy = some w → Ready s →
    (bits w 63 24 ≠ 0 ∨
      bits w 7 0 ∉
        [0x01, 0x10, 0x11, 0x12, 0x13, 0x14, 0x15, 0x20, 0x21, 0x22, 0x23, 0x24, 0x25, 0x26, 0x27, 0x28, 0x29, 0x30,
          0x31, 0x32, 0x33] ∨
      ∀ i : Instr, i.wf = true → encode i ≠ w) →
    ∃ t, step s = .next t ∧ EndsError (BitVec.ofNat 8 (w.toNat % 256)) 0x01 s t ∧ OnlyRegs [] s t ∧ SameCaches s t

/-! ### The step, the port and reset -/

/-- 60_exceptions.md R406: when a busy core may complete, the step is the completion of the command its word decodes to.
That `exec` is the completion event is the model's form (log 2, log 18). -/
def Obligations.StepRunsDecodedCommand : Prop :=
  ∀ (s : State) (w : Word) (i : Instr), s.busy = some w → Ready s → decode w = .ok i → step s = exec i s

/-- 20_memory.md R110, R120: on an idle core and on a busy one not yet to complete, a write of the host is the step to the
port write, a read is the step to the port read with its reply logged, and a WAIT is a read of STATUS that stays pending
while the core is busy (30_encoding.md R162). 60_exceptions.md R405: a CMD write to an idle core is accepted at once; the
core holds all 64 bits, BUSY becomes 1 and DONE 0, and nothing else of the core changes. The list of coming actions, the
log of replies and WAIT as one action are the model's choice (DESIGN CHOICE, log 1, log 22, log 23). -/
def Obligations.HostActionsStepThePortAndCmdIsAccepted : Prop :=
  (∀ (s : State) (i : BitVec 12) (v : Word) (rest : List HostOp), HostActs s → s.pending = .write i v :: rest →
    step s = .next ((s.hostTurn rest).portWrite i v)) ∧
  (∀ (s : State) (i : BitVec 12) (rest : List HostOp), HostActs s → s.pending = .read i :: rest →
    step s = .next (((s.hostTurn rest).afterRead i).reply (.word i ((s.hostTurn rest).portRead i)))) ∧
  (∀ (s : State) (rest after : List HostOp), HostActs s → s.pending = .wait :: rest →
    after = (if s.busy.isSome then .wait :: rest else rest) →
    step s = .next ((s.hostTurn after).reply (.word 0x002 s.statusWord))) ∧
  ∀ (s : State) (v : Word) (rest : List HostOp), s.busy = none → s.pending = .write 0x001 v :: rest →
    ∃ t, step s = .next t ∧ t.busy = some v ∧ t.status = { s.status with done := false } ∧ t.pending = rest ∧
      t.ie = s.ie ∧ t.cmdCount = s.cmdCount ∧ t.replies = s.replies ∧ SameRegsBut [] s t ∧ SameField s t ∧
      SameBanksBut [] s t ∧ SamePivots s t ∧ SameConj s t ∧ t.caches = s.caches

/-- 70_reset_and_hazards.md R462: while busy, a write to CMD, G0 to G7, BDIM0 or BANK0 changes nothing but COLL <- 1, a
write to CTRL acts as when idle, and a write to a reserved or read-only word is ignored. -/
def Obligations.BusyWritesAreRefused : Prop :=
  ∀ (s : State) (i : BitVec 12) (v : Word), s.busy.isSome = true →
    (refusedWhenBusy i.toNat → s.portWrite i v = { s with status := { s.status with coll := true } }) ∧
      (i.toNat = 0x003 → s.portWrite i v = s.writeCtrl v) ∧
      (reservedIndex i.toNat ∨ readOnlyIndex i.toNat → s.portWrite i v = s)

/-- 20_memory.md R102, R103, busy or idle: a host read of a reserved word returns 0 and a host write to one is ignored; a
host write to a read-only word changes no state, COLL included; a host read of CMD returns 0. -/
def Obligations.ReservedAndReadOnlyWords : Prop :=
  ∀ (s : State) (i : BitVec 12) (v : Word),
    (reservedIndex i.toNat → s.portRead i = 0 ∧ s.portWrite i v = s) ∧
      (readOnlyIndex i.toNat → s.portWrite i v = s) ∧ s.portRead 0x001 = 0

/-- 10_state.md R55: a CTRL write, busy or idle, stores IE, clears DONE with bit 1 and ERRACC and COLL with bit 2, changes
nothing else, and CTRL then reads IE alone. -/
def Obligations.CtrlWriteActs : Prop :=
  ∀ (s : State) (v : Word), ∃ t, s.portWrite 0x003 v = t ∧ t.ie = v.getLsbD 0 ∧
    t.status = { s.status with
      done := if v.getLsbD 1 then false else s.status.done
      errAcc := if v.getLsbD 2 then false else s.status.errAcc
      coll := if v.getLsbD 2 then false else s.status.coll } ∧
    t = { s with ie := t.ie, status := t.status } ∧ t.portRead 0x003 = (if v.getLsbD 0 then 1 else 0)

/-- 20_memory.md R114, R120, 70_reset_and_hazards.md R460: on an idle core a write to a general register or a row of BANK0
reads back and every other word reads as before; a write to BDIM0 keeps bits 6:0 and 14:8 (10_state.md R71). -/
def Obligations.HostWriteReadsBack : Prop :=
  ∀ (s : State) (i : BitVec 12) (v : Word), s.busy = none →
    ((0x010 ≤ i.toNat ∧ i.toNat ≤ 0x017) ∨ (0x100 ≤ i.toNat ∧ i.toNat ≤ 0x13F) → (s.portWrite i v).portRead i = v) ∧
      (i.toNat = 0x00C → (s.portWrite i v).portRead i = v &&& 0x7F7F) ∧
      (i.toNat ≠ 0x001 → i.toNat ≠ 0x003 → ∀ j, j ≠ i → (s.portWrite i v).portRead j = s.portRead j)

/-- 20_memory.md R101 on an idle core, and 70_reset_and_hazards.md R461: while busy ID, STATUS, CTRL and CMD_COUNT read
their current values and no read changes anything of the core. -/
def Obligations.PortReadsFollowTheMap : Prop :=
  ∀ (s : State) (i : BitVec 12),
    s.portRead 0x000 = 0x4B4F4D4D00000001 ∧ s.portRead 0x002 = s.statusWord ∧ s.portRead 0x003 = s.ctrlWord ∧
      s.portRead 0x004 = s.cmdCount ∧
      (s.busy = none →
        (i.toNat = 0x005 → (s.portRead i).toNat = s.field.k.toNat) ∧ (i.toNat = 0x006 → s.portRead i = s.field.modulus) ∧
          (i.toNat = 0x007 → s.portRead i = s.field.prim) ∧ (i.toNat = 0x008 → s.portRead i = s.field.order) ∧
          (i.toNat = 0x009 → (s.portRead i).toNat = s.pivCnt.toNat) ∧
          (i.toNat = 0x00A → (s.portRead i).toNat = s.conjCnt.toNat) ∧
          (∀ b : Fin 4, i.toNat = 0x00C + b.val →
            (s.portRead i).toNat = (s.dim b).rows.toNat + 256 * (s.dim b).cols.toNat) ∧
          (∀ r : Reg, i.toNat = 0x010 + r.val → s.portRead i = s.reg r) ∧
          (∀ p : Fin 64, i.toNat = 0x040 + p.val → (s.portRead i).toNat = (s.piv[p]).toNat) ∧
          (∀ c : Fin 16, i.toNat = 0x080 + c.val → s.portRead i = s.conj[c]) ∧
          (∀ (b : Fin 4) (r : Fin 64), i.toNat = 0x100 + 64 * b.val + r.val → s.portRead i = s.bankRow b r)) ∧
      (s.busy = none → s.afterRead i = s) ∧ s.afterRead i = { s with draws := (s.afterRead i).draws }

/-- 10_state.md R54: the fields of STATUS stand at their bits, BUSY and FV as the busy state and the field context say, and
every reserved bit reads 0. -/
def Obligations.StatusWordLayout : Prop :=
  ∀ s : State,
    s.statusWord.getLsbD 0 = s.busy.isSome ∧ s.statusWord.getLsbD 1 = s.status.done ∧
      s.statusWord.getLsbD 2 = s.status.err ∧ s.statusWord.getLsbD 3 = s.status.nf ∧
      s.statusWord.getLsbD 4 = s.field.fv ∧ s.statusWord.getLsbD 5 = s.status.errAcc ∧
      s.statusWord.getLsbD 6 = s.status.coll ∧ s.statusWord.getLsbD 7 = false ∧
      bits s.statusWord 15 8 = s.status.ecode.toNat ∧ bits s.statusWord 23 16 = s.status.lastOp.toNat ∧
      bits s.statusWord 63 24 = 0

/-- 60_exceptions.md R420: IRQ after every completion, of a command or of an illegal word, is CTRL.IE; it is cleared by CTRL.CLR_DONE, by the acceptance of the next
command and by reset, and it is masked by CTRL.IE = 0. -/
def Obligations.IrqFollowsCompletion : Prop :=
  (∀ (i : Instr) (s t : State), exec i s = .next t → t.irq = s.ie) ∧
    (∀ (s : State) (w : Word), s.busy = some w → Ready s → ∃ t, step s = .next t ∧ t.irq = s.ie) ∧
    (∀ (s : State) (v : Word), s.busy = none → (s.portWrite 0x001 v).irq = false) ∧
    (∀ (s : State) (v : Word), v.getLsbD 1 = true → (s.portWrite 0x003 v).irq = false) ∧
    (∀ (s : State) (v : Word), v.getLsbD 0 = false → (s.portWrite 0x003 v).irq = false) ∧
    (∀ (s : State) (v : Word), v.getLsbD 0 = true → v.getLsbD 1 = false →
      (s.portWrite 0x003 v).irq = s.status.done) ∧
    State.reset.irq = false

/-- 70_reset_and_hazards.md R470: every accepted command completes unless reset intervenes. Within `delay` + 1 steps a busy
core whose host makes only port accesses is idle, with one more completion counted. The bound by `delay` is the model's own
form of the latency (log 2). -/
def Obligations.BusyCommandCompletes : Prop :=
  ∀ (s : State) (w : Word), s.busy = some w → PortOnly s.pending →
    ∃ k t, k ≤ s.delay + 1 ∧ Host.Core.run Sys2Proof.core k s = .next t ∧ t.busy = none ∧
      t.cmdCount = s.cmdCount + 1 ∧ t.status.done = true

/-- 10_state.md R58: while busy the core holds w, and the registers, banks and field a command reads cannot change before
its completion, unless reset intervenes. -/
def Obligations.OperandsStableWhileBusy : Prop :=
  ∀ (s t : State) (w : Word), s.busy = some w → ¬Ready s → s.pending.head? ≠ some .reset → step s = .next t →
    t.busy = some w ∧ SameRegsBut [] s t ∧ SameField s t ∧ SameBanksBut [] s t ∧ SamePivots s t ∧ SameConj s t ∧
      t.caches = s.caches ∧ t.cmdCount = s.cmdCount

/-- 10_state.md R90: the reset values the spec gives. -/
def Obligations.ResetStateTable : Prop :=
  (∀ r, State.reset.reg r = 0) ∧ State.reset.statusWord = 0 ∧ State.reset.ctrlWord = 0 ∧ State.reset.cmdCount = 0 ∧
    State.reset.busy = none ∧ State.reset.field = FieldCtx.invalid ∧
    (∀ b, (State.reset.dim b).rows = 0 ∧ (State.reset.dim b).cols = 0) ∧ State.reset.pivCnt = 0 ∧
    State.reset.conjCnt = 0 ∧ State.reset.caches = Caches.empty ∧ State.reset.irq = false ∧
    State.reset.portRead 0x000 = 0x4B4F4D4D00000001

/-- 70_reset_and_hazards.md R450: asserting reset, idle or with a command in flight, gives every piece of state its reset
value; the command in flight is abandoned and not counted. -/
def Obligations.ResetInputRestoresTable : Prop :=
  ∀ (s : State) (rest : List HostOp), s.pending = .reset :: rest → (s.busy = none ∨ ¬Ready s) →
    ∃ t, step s = .next t ∧ t.pending = rest ∧ t.busy = none ∧ t.cmdCount = 0 ∧ t.statusWord = 0 ∧ t.ie = false ∧
      (∀ r, t.reg r = 0) ∧ t.field = FieldCtx.invalid ∧ (∀ b, (t.dim b).rows = 0 ∧ (t.dim b).cols = 0) ∧
      t.pivCnt = 0 ∧ t.conjCnt = 0 ∧ t.caches = Caches.empty ∧ t.irq = false

/-- 20_memory.md R112, R113: byte 8i + j of the bridge carries bits 8j+7 to 8j of word i; an aligned 8-byte read or write,
of an idle core or of a busy one not yet to complete, is the port access of its word; any other is not forwarded. That the
bridge is two host actions, a read logging its eight bytes, is the model's choice (DESIGN CHOICE, log 14). -/
def Obligations.BridgeIsLittleEndian : Prop :=
  (∀ (v : Word) (j : Nat), j < 8 → ∃ b, (wordBytes v)[j]? = some b ∧ b.toNat = bits v (8 * j + 7) (8 * j)) ∧
    (∀ v : Word, (wordBytes v).length = 8 ∧ bytesWord (wordBytes v) = v.toNat) ∧
    (∀ (s : State) (i : BitVec 12) (v : Word) (rest : List HostOp), HostActs s →
      s.pending = .busWrite (BitVec.ofNat 15 (8 * i.toNat)) (wordBytes v) :: rest →
      step s = .next ((s.hostTurn rest).portWrite i v)) ∧
    (∀ (s : State) (i : BitVec 12) (a : BitVec 15) (rest : List HostOp), HostActs s → a.toNat = 8 * i.toNat →
      s.pending = .busRead a 8 :: rest →
      step s = .next (((s.hostTurn rest).afterRead i).reply (.bytes a (wordBytes ((s.hostTurn rest).portRead i))))) ∧
    (∀ (s : State) (a : BitVec 15) (bs : List Byte) (rest : List HostOp), HostActs s →
      s.pending = .busWrite a bs :: rest → (a.toNat % 8 ≠ 0 ∨ bs.length ≠ 8) →
      step s = .refused .busAccessNotForwarded) ∧
    (∀ (s : State) (a : BitVec 15) (width : Nat) (rest : List HostOp), HostActs s →
      s.pending = .busRead a width :: rest → (a.toNat % 8 ≠ 0 ∨ width ≠ 8) →
      step s = .refused .busAccessNotForwarded)

/-! ### Ring commands -/

/-- 40_ring.md R200. That PADD leaves the caches as they are is the model's reading (DEDUCED, log 8; R205 would let a ring
command use the reduction cache). -/
def Obligations.PaddAddsPolynomials : Prop :=
  ∀ (rd rs1 rs2 : Reg) (s : State), ∃ t, exec (.padd rd rs1 rs2) s = .next t ∧
    t.reg rd = s.reg rs1 ^^^ s.reg rs2 ∧ EndsOk 0x10 false s t ∧ OnlyRegs [rd] s t ∧ SameCaches s t

/-- 40_ring.md R211: the exact product, or EOVF exactly when both operands are not 0 and their degrees sum above 63.
That PMUL leaves the caches as they are is the model's reading (DEDUCED, log 8; R205 would let a ring command use the
reduction cache). -/
def Obligations.PmulMultipliesOrOverflows : Prop :=
  ∀ (rd rs1 rs2 : Reg) (s : State),
    ((s.poly rs1 = 0 ∨ s.poly rs2 = 0 ∨ deg (s.poly rs1) + deg (s.poly rs2) ≤ 63) →
      ∃ t, exec (.pmul rd rs1 rs2) s = .next t ∧ t.poly rd = clmul (s.poly rs1) (s.poly rs2) ∧
        EndsOk 0x11 false s t ∧ OnlyRegs [rd] s t ∧ SameCaches s t) ∧
      ((s.poly rs1 ≠ 0 ∧ s.poly rs2 ≠ 0 ∧ 63 < deg (s.poly rs1) + deg (s.poly rs2)) →
        ∃ t, exec (.pmul rd rs1 rs2) s = .next t ∧ EndsError 0x11 0x03 s t ∧ OnlyRegs [] s t ∧ SameCaches s t)

/-- 40_ring.md R221: quotient and remainder of pdivmod, exactly; EDIVZERO when the divisor is 0. No cache but the reduction
cache is used (R205); that a refused division uses none is the model's reading (DEDUCED, log 8). -/
def Obligations.PdivmodDividesOrFails : Prop :=
  ∀ (rd rd2 rs1 rs2 : Reg) (s : State), rd ≠ rd2 →
    (s.poly rs2 ≠ 0 →
      ∃ t, exec (.pdivmod rd rd2 rs1 rs2) s = .next t ∧
        (t.poly rd, t.poly rd2) = pdivmod (s.poly rs1) (s.poly rs2) ∧ EndsOk 0x12 false s t ∧
        OnlyRegs [rd, rd2] s t ∧ SameFieldCaches s t) ∧
      (s.poly rs2 = 0 →
        ∃ t, exec (.pdivmod rd rd2 rs1 rs2) s = .next t ∧ EndsError 0x12 0x02 s t ∧ OnlyRegs [] s t ∧
          SameCaches s t)

/-- 40_ring.md R225: the degree, and -1 in two's complement for the zero polynomial. That PDEG leaves the caches as they
are is the model's reading (DEDUCED, log 8; R205 would let a ring command use the reduction cache). -/
def Obligations.PdegWritesDegree : Prop :=
  ∀ (rd rs1 : Reg) (s : State), ∃ t, exec (.pdeg rd rs1) s = .next t ∧
    (s.poly rs1 = 0 → t.reg rd = 0xFFFFFFFFFFFFFFFF) ∧
    (∀ d : Nat, (s.reg rs1).getLsbD d = true → (∀ j, d < j → (s.reg rs1).getLsbD j = false) → t.poly rd = d) ∧
    EndsOk 0x13 false s t ∧ OnlyRegs [rd] s t ∧ SameCaches s t

/-- 40_ring.md R231: d, s and t of egcd(x, y), exactly, to the three destinations. That they are exact in 64 bits rests on
the bound of R232, which the spec derives and does not prove (UNVERIFIED, log 21). No cache but the reduction cache is used
(R205). -/
def Obligations.PgcdWritesBezout : Prop :=
  ∀ (rd rd2 rd3 rs1 rs2 : Reg) (s : State), rd ≠ rd2 → rd ≠ rd3 → rd2 ≠ rd3 →
    ∃ t, exec (.pgcd rd rd2 rd3 rs1 rs2) s = .next t ∧
      (t.poly rd, t.poly rd2, t.poly rd3) = egcd (s.poly rs1) (s.poly rs2) ∧ EndsOk 0x14 false s t ∧
      OnlyRegs [rd, rd2, rd3] s t ∧ SameFieldCaches s t

/-- 40_ring.md R241: the n-fold product, or EOVF exactly when a ≠ 0, n ≥ 1 and deg(a)·n > 63. That the power is
the n-fold product is the spec's own derived sentence (R240). That PPOW leaves the caches as they are is the model's
reading (DEDUCED, log 8; R205 would let a ring command use the reduction cache). -/
def Obligations.PpowRaisesOrOverflows : Prop :=
  ∀ (rd rs1 rs2 : Reg) (s : State),
    ((s.poly rs1 = 0 ∨ deg (s.poly rs1) * s.poly rs2 ≤ 63) →
      ∃ t, exec (.ppow rd rs1 rs2) s = .next t ∧ t.poly rd = polyPower (s.poly rs1) (s.poly rs2) ∧
        EndsOk 0x15 false s t ∧ OnlyRegs [rd] s t ∧ SameCaches s t) ∧
      ((s.poly rs1 ≠ 0 ∧ 63 < deg (s.poly rs1) * s.poly rs2) →
        ∃ t, exec (.ppow rd rs1 rs2) s = .next t ∧ EndsError 0x15 0x03 s t ∧ OnlyRegs [] s t ∧ SameCaches s t)

/-- 40_ring.md R210: bit j of the product is the XOR over i of a[i] AND b[j-i]; the degree of a product of nonzero
polynomials is the sum of their degrees; a zero operand gives 0. The degrees are the spec's own derived sentence. -/
def Obligations.ClmulIsConvolution : Prop :=
  ∀ a b : Nat, a < 2 ^ 64 → b < 2 ^ 64 →
    (∀ j, (clmul a b).testBit j = convBit a b j) ∧ (a ≠ 0 → b ≠ 0 → deg (clmul a b) = deg a + deg b) ∧
      (a = 0 ∨ b = 0 → clmul a b = 0)

/-- 40_ring.md R220: a = b·q + r with deg(r) < deg(b), and the degrees of q and r (the spec's own derived sentence). -/
def Obligations.PdivmodIsDivision : Prop :=
  ∀ a b : Nat, a < 2 ^ 64 → b < 2 ^ 64 → b ≠ 0 →
    a = clmul b (pdivmod a b).1 ^^^ (pdivmod a b).2 ∧ deg (pdivmod a b).2 < deg b ∧
      (deg b ≤ deg a → deg (pdivmod a b).1 = deg a - deg b) ∧ (deg a < deg b → pdivmod a b = (0, a)) ∧
      deg (pdivmod a b).2 ≤ deg a

/-- 40_ring.md R230, R232: d = s·x + t·y, d divides x and y, and none of d, s, t needs more than 64 bits. The bound is the
spec's derived and unproved claim (R232; log 21). -/
def Obligations.EgcdIsBezoutInSixtyFourBits : Prop :=
  ∀ x y : Nat, x < 2 ^ 64 → y < 2 ^ 64 →
    (egcd x y).1 < 2 ^ 64 ∧ (egcd x y).2.1 < 2 ^ 64 ∧ (egcd x y).2.2 < 2 ^ 64 ∧
      (egcd x y).1 = clmul (egcd x y).2.1 x ^^^ clmul (egcd x y).2.2 y ∧
      (∃ u, u < 2 ^ 64 ∧ x = clmul u (egcd x y).1) ∧ ∃ u, u < 2 ^ 64 ∧ y = clmul u (egcd x y).1

/-! ### System command -/

/-- 43_system.md R380: every entry of the four caches becomes invalid and nothing else changes but completion's own. -/
def Obligations.CflushEmptiesCaches : Prop :=
  ∀ s : State, ∃ t, exec .cflush s = .next t ∧ t.caches.mul = [] ∧ t.caches.inv = [] ∧ t.caches.log = [] ∧
    t.caches.red = [] ∧ EndsOk 0x01 false s t ∧ OnlyRegs [] s t

/-! ### Field commands -/

/-- 41_field.md R255, the accepted configurations: K from 1 to 16, and for FCFG a modulus of degree K. -/
def Obligations.FcfgConfiguresTheField : Prop :=
  (∀ (rs1 rs2 : Reg) (s : State), 1 ≤ s.poly rs1 → s.poly rs1 ≤ 16 → deg (s.poly rs2) = s.poly rs1 →
    ∃ t, exec (.fcfg rs1 rs2) s = .next t ∧ t.field.fv = true ∧ t.field.k.toNat = s.poly rs1 ∧
      t.field.modulus = s.reg rs2 ∧ t.field.order.toNat = 2 ^ s.poly rs1 ∧
      t.field.prim.toNat = (pdivmod 2 (s.poly rs2)).2 ∧ t.caches = Caches.empty ∧ EndsOk 0x20 false s t ∧
      SameRegsBut [] s t ∧ SameBanksBut [] s t ∧ SamePivots s t ∧ SameConj s t ∧ SameHost s t) ∧
    ∀ (rs1 : Reg) (s : State), 1 ≤ s.poly rs1 → s.poly rs1 ≤ 16 →
      ∃ t, exec (.fcfgD rs1) s = .next t ∧ t.field.fv = true ∧ t.field.k.toNat = s.poly rs1 ∧
        [0x3, 0x7, 0xB, 0x13, 0x25, 0x43, 0x89, 0x11D, 0x211, 0x409, 0x805, 0x1053, 0x201B, 0x4443, 0x8003,
          0x1100B][s.poly rs1 - 1]? = some t.field.modulus.toNat ∧
        deg t.field.modulus.toNat = s.poly rs1 ∧ t.field.order.toNat = 2 ^ s.poly rs1 ∧
        t.field.prim.toNat = (pdivmod 2 t.field.modulus.toNat).2 ∧ t.caches = Caches.empty ∧ EndsOk 0x20 false s t ∧
        SameRegsBut [] s t ∧ SameBanksBut [] s t ∧ SamePivots s t ∧ SameConj s t ∧ SameHost s t

/-- 41_field.md R255, the refused configurations: ECONFIG, and no valid field is left. -/
def Obligations.BadConfigurationLeavesNoField : Prop :=
  (∀ (rs1 rs2 : Reg) (s : State),
    (s.poly rs1 = 0 ∨ 16 < s.poly rs1 ∨ deg (s.poly rs2) ≠ s.poly rs1) →
    ∃ t, exec (.fcfg rs1 rs2) s = .next t ∧ t.field = FieldCtx.invalid ∧ t.caches = Caches.empty ∧
      EndsError 0x20 0x05 s t ∧ SameRegsBut [] s t ∧ SameBanksBut [] s t ∧ SamePivots s t ∧ SameConj s t ∧
      SameHost s t) ∧
    ∀ (rs1 : Reg) (s : State), (s.poly rs1 = 0 ∨ 16 < s.poly rs1) →
      ∃ t, exec (.fcfgD rs1) s = .next t ∧ t.field = FieldCtx.invalid ∧ t.caches = Caches.empty ∧
        EndsError 0x20 0x05 s t ∧ SameRegsBut [] s t ∧ SameBanksBut [] s t ∧ SamePivots s t ∧ SameConj s t ∧
        SameHost s t

/-- 41_field.md R252: without a field every field command except FCFG and FCFG.D ends with ENOFIELD and writes nothing. -/
def Obligations.FieldCommandsNeedAField : Prop :=
  ∀ (i : Instr) (s : State), elementOperands i ≠ [] → s.field.fv = false →
    ∃ t, exec i s = .next t ∧ EndsError (BitVec.ofNat 8 i.opcode) 0x04 s t ∧ OnlyRegs [] s t ∧ SameCaches s t

/-- 41_field.md R251: an operand that is no field element ends the command with ERANGE and nothing is written. -/
def Obligations.OutOfRangeElementIsRejected : Prop :=
  ∀ (i : Instr) (s : State) (r : Reg), r ∈ elementOperands i → s.field.fv = true → 2 ^ s.field.degree ≤ s.poly r →
    ∃ t, exec i s = .next t ∧ EndsError (BitVec.ofNat 8 i.opcode) 0x06 s t ∧ OnlyRegs [] s t ∧ SameCaches s t

/-- 41_field.md R258. That FADD leaves the caches as they are is the model's reading (DEDUCED, log 8). -/
def Obligations.FaddAddsElements : Prop :=
  ∀ (rd rs1 rs2 : Reg) (s : State), s.field.fv = true → s.poly rs1 < 2 ^ s.field.degree →
    s.poly rs2 < 2 ^ s.field.degree →
    ∃ t, exec (.fadd rd rs1 rs2) s = .next t ∧ t.reg rd = s.reg rs1 ^^^ s.reg rs2 ∧
      t.poly rd < 2 ^ s.field.degree ∧ EndsOk 0x21 false s t ∧ OnlyRegs [rd] s t ∧ SameCaches s t

/-- 41_field.md R260, R261: the product modulo m: an element that differs from the ring product by a multiple of m, the
spec's own derived sentence (R260, R220). -/
def Obligations.FmulMultipliesModulo : Prop :=
  ∀ (rd rs1 rs2 : Reg) (s : State), FieldOk s.field → s.field.fv = true → s.poly rs1 < 2 ^ s.field.degree →
    s.poly rs2 < 2 ^ s.field.degree →
    ∃ t, exec (.fmul rd rs1 rs2) s = .next t ∧
      t.poly rd = (pdivmod (clmul (s.poly rs1) (s.poly rs2)) s.field.mod).2 ∧ t.poly rd < 2 ^ s.field.degree ∧
      (∃ q, q < 2 ^ 64 ∧ clmul (s.poly rs1) (s.poly rs2) = clmul s.field.mod q ^^^ t.poly rd) ∧
      EndsOk 0x22 false s t ∧ OnlyRegs [rd] s t

/-- 41_field.md R266: the inverse, or EDIVZERO when there is none. -/
def Obligations.FinvInvertsOrFails : Prop :=
  ∀ (rd rs1 : Reg) (s : State), s.field.fv = true → s.poly rs1 < 2 ^ s.field.degree →
    (∀ v, finv s.field.mod (s.poly rs1) = some v →
      ∃ t, exec (.finv rd rs1) s = .next t ∧ t.reg rd = BitVec.ofNat 64 v ∧ EndsOk 0x23 false s t ∧
        OnlyRegs [rd] s t) ∧
      (finv s.field.mod (s.poly rs1) = none →
        ∃ t, exec (.finv rd rs1) s = .next t ∧ EndsError 0x23 0x02 s t ∧ OnlyRegs [] s t)

/-- 41_field.md R268: the dividend times the inverse of the divisor, or EDIVZERO when it has none. -/
def Obligations.FdivDividesOrFails : Prop :=
  ∀ (rd rs1 rs2 : Reg) (s : State), s.field.fv = true → s.poly rs1 < 2 ^ s.field.degree →
    s.poly rs2 < 2 ^ s.field.degree →
    (∀ v, finv s.field.mod (s.poly rs2) = some v →
      ∃ t, exec (.fdiv rd rs1 rs2) s = .next t ∧ t.reg rd = BitVec.ofNat 64 (fmul s.field.mod (s.poly rs1) v) ∧
        EndsOk 0x24 false s t ∧ OnlyRegs [rd] s t) ∧
      (finv s.field.mod (s.poly rs2) = none →
        ∃ t, exec (.fdiv rd rs1 rs2) s = .next t ∧ EndsError 0x24 0x02 s t ∧ OnlyRegs [] s t)

/-- 41_field.md R270, R271: the |e|-fold product of x, or of its inverse when e is negative; EDIVZERO when e is negative
and x has no inverse. That the power is the n-fold product is the spec's own derived sentence (40_ring.md R240). -/
def Obligations.FpowRaisesOrFails : Prop :=
  ∀ (rd rs1 rs2 : Reg) (s : State), FieldOk s.field → s.field.fv = true → s.poly rs1 < 2 ^ s.field.degree →
    (0 ≤ (s.reg rs2).toInt →
      ∃ t, exec (.fpow rd rs1 rs2) s = .next t ∧
        t.poly rd = fieldPower s.field.mod (s.poly rs1) (s.reg rs2).toInt.natAbs ∧ EndsOk 0x25 false s t ∧
        OnlyRegs [rd] s t) ∧
      ((s.reg rs2).toInt < 0 → ∀ v, finv s.field.mod (s.poly rs1) = some v →
        ∃ t, exec (.fpow rd rs1 rs2) s = .next t ∧
          t.poly rd = fieldPower s.field.mod v (s.reg rs2).toInt.natAbs ∧ EndsOk 0x25 false s t ∧
          OnlyRegs [rd] s t) ∧
      ((s.reg rs2).toInt < 0 → finv s.field.mod (s.poly rs1) = none →
        ∃ t, exec (.fpow rd rs1 rs2) s = .next t ∧ EndsError 0x25 0x02 s t ∧ OnlyRegs [] s t)

/-- 41_field.md R280: the least exponent i in [0, 2^K) with base^i = x, or NF = 1 and RD unwritten; for FLOG with the base
in RS2 and for FLOG.P with FIELD_PRIM. -/
def Obligations.FlogFindsLeastExponent : Prop :=
  ∀ (i : Instr) (rd rs1 : Reg) (s : State) (base : Nat), s.field.fv = true → s.poly rs1 < 2 ^ s.field.degree →
    ((∃ rs2, i = .flog rd rs1 rs2 ∧ base = s.poly rs2 ∧ base < 2 ^ s.field.degree) ∨
      (i = .flogP rd rs1 ∧ base = s.field.prim.toNat)) →
    (∀ e, e < 2 ^ s.field.degree → fpow s.field.mod base (Int.ofNat e) = some (s.poly rs1) →
      (∀ j, j < e → fpow s.field.mod base (Int.ofNat j) ≠ some (s.poly rs1)) →
      ∃ t, exec i s = .next t ∧ t.poly rd = e ∧ EndsOk 0x26 false s t ∧ OnlyRegs [rd] s t) ∧
      ((∀ j, j < 2 ^ s.field.degree → fpow s.field.mod base (Int.ofNat j) ≠ some (s.poly rs1)) →
        ∃ t, exec i s = .next t ∧ EndsOk 0x26 true s t ∧ OnlyRegs [] s t)

/-- 41_field.md R286: the orbit and its length, zeros beyond it; EOVF when it needs a 17th element. -/
def Obligations.FconjListsTheOrbit : Prop :=
  ∀ (rs1 : Reg) (s : State), FieldOk s.field → s.field.fv = true → s.poly rs1 < 2 ^ s.field.degree →
    (∀ seq, conjSeq s.field.mod (s.poly rs1) = some seq →
      ∃ t, exec (.fconj rs1) s = .next t ∧ t.conjCnt.toNat = seq.length ∧
        (∀ i : Fin 16, (t.conj[i]).toNat = seq.getD i.val 0) ∧ EndsOk 0x27 false s t ∧ SameRegsBut [] s t ∧
        SameField s t ∧ SameBanksBut [] s t ∧ SamePivots s t ∧ SameHost s t) ∧
      (conjSeq s.field.mod (s.poly rs1) = none →
        ∃ t, exec (.fconj rs1) s = .next t ∧ EndsError 0x27 0x03 s t ∧ OnlyRegs [] s t)

/-- 41_field.md R291, R292: the product of X + c over the conjugates; EOVF before ENOTBIN. -/
def Obligations.FminpBuildsTheProduct : Prop :=
  ∀ (rd rs1 : Reg) (s : State), s.field.fv = true → s.poly rs1 < 2 ^ s.field.degree →
    (∀ cs, conjSeq s.field.mod (s.poly rs1) = some cs →
      (∀ a ∈ minpolyCoeffs s.field.mod cs, a = 0 ∨ a = 1) →
      ∃ t, exec (.fminp rd rs1) s = .next t ∧
        t.reg rd = BitVec.ofNat 64 (packCoeffs (minpolyCoeffs s.field.mod cs)) ∧ EndsOk 0x28 false s t ∧
        OnlyRegs [rd] s t) ∧
      (conjSeq s.field.mod (s.poly rs1) = none →
        ∃ t, exec (.fminp rd rs1) s = .next t ∧ EndsError 0x28 0x03 s t ∧ OnlyRegs [] s t) ∧
      (∀ cs, conjSeq s.field.mod (s.poly rs1) = some cs →
        (∃ a ∈ minpolyCoeffs s.field.mod cs, a ≠ 0 ∧ a ≠ 1) →
        ∃ t, exec (.fminp rd rs1) s = .next t ∧ EndsError 0x28 0x07 s t ∧ OnlyRegs [] s t)

/-- 41_field.md R300: the Horner value, an element of the field; the polynomial is not range-checked. -/
def Obligations.FevalEvaluatesAtElement : Prop :=
  ∀ (rd rs1 rs2 : Reg) (s : State), FieldOk s.field → s.field.fv = true → s.poly rs2 < 2 ^ s.field.degree →
    ∃ t, exec (.feval rd rs1 rs2) s = .next t ∧ t.poly rd = feval s.field.mod (s.poly rs1) (s.poly rs2) ∧
      t.poly rd < 2 ^ s.field.degree ∧ EndsOk 0x29 false s t ∧ OnlyRegs [rd] s t

/-- 41_field.md R265: what finv answers is below 2^K and is an inverse; where it fails, no element is one. For any modulus
of degree K from 1 to 16, reducible ones included (R254). The bound and the product are the spec's own derived sentence. -/
def Obligations.FinvIsTheInverse : Prop :=
  ∀ (k m a : Nat), 1 ≤ k → k ≤ 16 → deg m = k → a < 2 ^ k →
    (∀ v, finv m a = some v → v < 2 ^ k ∧ fmul m a v = 1) ∧
      (finv m a = none → ∀ v, v < 2 ^ k → fmul m a v ≠ 1)

/-- 41_field.md R285: the sequence is x, x^2, x^4, ... up to the first repetition; it overflows exactly when the first 17
of these values are distinct. The closed form is read from the loop of R285; it is an inference of the model. -/
def Obligations.ConjSeqIsTheFrobeniusOrbit : Prop :=
  ∀ m x : Nat,
    (∀ seq, conjSeq m x = some seq →
      1 ≤ seq.length ∧ seq.length ≤ 16 ∧ seq = (List.range seq.length).map (frobenius m x) ∧ seq.Nodup ∧
        frobenius m x seq.length ∈ seq) ∧
      (conjSeq m x = none ↔ ((List.range 17).map (frobenius m x)).Nodup)

/-- 41_field.md R291, R300: the result is monic of degree length(cs); it is the product of X + c over cs, as its value at
every element y is the product of y + c (an inference from R291's sentence and the ring laws of R254); and the minimal
polynomial of x is 0 at x (R300, the spec's own derived sentence). For any modulus of degree K from 1 to 16. -/
def Obligations.MinpolyIsTheMonicProduct : Prop :=
  ∀ (m : Nat) (cs : List Nat), (minpolyCoeffs m cs).length = cs.length + 1 ∧
    (minpolyCoeffs m cs).getLast? = some 1 ∧
    (binaryCoeffs (minpolyCoeffs m cs) = true → deg (packCoeffs (minpolyCoeffs m cs)) = cs.length) ∧
    ∀ k : Nat, 1 ≤ k → k ≤ 16 → deg m = k →
      (∀ y, y < 2 ^ k → (∀ c ∈ cs, c < 2 ^ k) → coeffsAt m (minpolyCoeffs m cs) y = productAt m cs y) ∧
        ∀ x, x < 2 ^ k → conjSeq m x = some cs → binaryCoeffs (minpolyCoeffs m cs) = true →
          feval m (packCoeffs (minpolyCoeffs m cs)) x = 0

/-- 41_field.md R300: Horner's value is the sum of the powers x^i with p[i] = 1, for any modulus of degree K; an inference
from the loop of R300. -/
def Obligations.FevalIsSumOfPowers : Prop :=
  ∀ (k m p x : Nat), 1 ≤ k → k ≤ 16 → deg m = k → x < 2 ^ k → p < 2 ^ 64 → feval m p x = sumOfPowers m p x 64

/-! ### Matrix commands -/

/-- 42_matrix.md R331: dimensions out of 1 to 64 end a matrix command with EDIM and nothing is written. -/
def Obligations.MatrixCommandsCheckDimensions : Prop :=
  ∀ (i : Instr) (s : State), i ∈ [Instr.mrref, .mxrref, .mrinv, .mnull] →
    ((s.dim 0).rows.toNat = 0 ∨ 64 < (s.dim 0).rows.toNat ∨ (s.dim 0).cols.toNat = 0 ∨ 64 < (s.dim 0).cols.toNat) →
    ∃ t, exec i s = .next t ∧ EndsError (BitVec.ofNat 8 i.opcode) 0x08 s t ∧ OnlyRegs [] s t ∧ SameCaches s t

/-- 42_matrix.md R341: bank 1 receives rref(M), all 64 rows. -/
def Obligations.MrrefReducesTheInput : Prop :=
  ∀ (s : State) (k n : Nat), s.inputDims = some (k, n) →
    ∃ t, exec .mrref s = .next t ∧ BankHolds t 1 k n (rref n (s.bankMatrix 0 k n)) ∧ EndsOk 0x30 false s t ∧
      OnlyBanks [1] s t

/-- 42_matrix.md R352: bank 1 receives the reduced matrix, bank 2 the transform, and the pivot list its pivot columns. -/
def Obligations.MxrrefWritesTransformAndPivots : Prop :=
  ∀ (s : State) (k n : Nat) (x : Xrref), s.inputDims = some (k, n) → x = xrref n (s.bankMatrix 0 k n) →
    ∃ t, exec .mxrref s = .next t ∧ BankHolds t 1 k n x.red ∧ BankHolds t 2 k k x.P ∧
      t.pivCnt.toNat = x.piv.length ∧ (∀ i : Fin 64, (t.piv[i]).toNat = x.piv.getD i.val 0) ∧
      EndsOk 0x31 false s t ∧ SameRegsBut [] s t ∧ SameField s t ∧ SameBanksBut [1, 2] s t ∧ SameConj s t ∧
      SameHost s t ∧ SameCaches s t

/-- 42_matrix.md R360: bank 3 receives E·P, or ERANK below full row rank. -/
def Obligations.MrinvInvertsOrFails : Prop :=
  ∀ (s : State) (k n : Nat) (x : Xrref), s.inputDims = some (k, n) → x = xrref n (s.bankMatrix 0 k n) →
    (k ≤ x.piv.length →
      ∃ t, exec .mrinv s = .next t ∧ BankHolds t 3 n k (matmul2 (pivotPlacement n x.piv) x.P) ∧
        EndsOk 0x32 false s t ∧ OnlyBanks [3] s t) ∧
      (x.piv.length < k →
        ∃ t, exec .mrinv s = .next t ∧ EndsError 0x32 0x09 s t ∧ OnlyRegs [] s t ∧ SameCaches s t)

/-- 42_matrix.md R370: bank 3 receives the (n-k)×n null matrix, or ERANK below full row rank. -/
def Obligations.MnullWritesNullMatrixOrFails : Prop :=
  ∀ (s : State) (k n : Nat) (x : Xrref), s.inputDims = some (k, n) → x = xrref n (s.bankMatrix 0 k n) →
    (k ≤ x.piv.length →
      ∃ t, exec .mnull s = .next t ∧ BankHolds t 3 (n - k) n (nullMatrix n x) ∧ EndsOk 0x33 false s t ∧
        OnlyBanks [3] s t) ∧
      (x.piv.length < k →
        ∃ t, exec .mnull s = .next t ∧ EndsError 0x33 0x09 s t ∧ OnlyRegs [] s t ∧ SameCaches s t)

/-- 42_matrix.md R340: the result is the reduced row-echelon form: zero rows last, leading columns strictly increasing,
each leading column zero in every other row. The spec's own derived sentence. -/
def Obligations.RrefIsReducedEchelon : Prop :=
  ∀ (q : Nat) (A : List Nat), (∀ a ∈ A, a < 2 ^ q) →
    (rref q A).length = A.length ∧
      (∀ i j, i < j → j < A.length → row (rref q A) i = 0 → row (rref q A) j = 0) ∧
      (∀ i j a b, i < j → lead q (row (rref q A) i) = some a → lead q (row (rref q A) j) = some b → a < b) ∧
      ∀ i j c, i ≠ j → lead q (row (rref q A) i) = some c → entry (rref q A) j c = false

/-- 42_matrix.md R350, R375: matmul2(P, M) = Red, and P is an invertible k×k matrix; the spec's own derived sentence. -/
def Obligations.TransformIsInvertibleAndReduces : Prop :=
  ∀ (n : Nat) (M : List Nat), (∀ a ∈ M, a < 2 ^ n) →
    matmul2 (xrref n M).P M = (xrref n M).red ∧ (xrref n M).P.length = M.length ∧
      (∀ a ∈ (xrref n M).P, a < 2 ^ M.length) ∧
      ∃ Q : List Nat, Q.length = M.length ∧ (∀ a ∈ Q, a < 2 ^ M.length) ∧
        matmul2 Q (xrref n M).P = identityRows M.length ∧ matmul2 (xrref n M).P Q = identityRows M.length

/-- 42_matrix.md R350: Red equals rref(M), the reduction of M alone; the pivot list has one entry per nonzero row of Red,
in increasing order, and entry i is the leading column of Red's row i (none for a zero row). The spec's own derived
sentences. -/
def Obligations.XrrefReducesAsRrefAndListsPivots : Prop :=
  ∀ (n : Nat) (M : List Nat), (∀ a ∈ M, a < 2 ^ n) →
    (xrref n M).red = rref n M ∧ (xrref n M).piv.length = ((xrref n M).red.filter fun a => a != 0).length ∧
      (xrref n M).piv.Pairwise (· < ·) ∧ ∀ i : Nat, (xrref n M).piv[i]? = lead n (row (xrref n M).red i)

/-- 42_matrix.md R360, R375: for full row rank, matmul2(M, R) is the identity; the spec's own derived sentence. -/
def Obligations.RightInverseIsRight : Prop :=
  ∀ (n : Nat) (M : List Nat), (∀ a ∈ M, a < 2 ^ n) → (xrref n M).piv.length = M.length →
    matmul2 M (rightInverse n (xrref n M)) = identityRows M.length

/-- 42_matrix.md R370, R375: for full row rank, every row of N is orthogonal to every row of M, N has n - k rows, and
they are independent (row rank n - k: no nonempty choice of rows sums to 0); the spec's own derived sentence. -/
def Obligations.NullRowsAreOrthogonalAndIndependent : Prop :=
  ∀ (n : Nat) (M : List Nat), (∀ a ∈ M, a < 2 ^ n) → (xrref n M).piv.length = M.length →
    (nullMatrix n (xrref n M)).length = n - M.length ∧
      (∀ a ∈ M, ∀ b ∈ nullMatrix n (xrref n M),
        ((List.range n).filter fun j => a.testBit j && b.testBit j).length % 2 = 0) ∧
      ∀ sel, sel < 2 ^ (n - M.length) → xorRows (nullMatrix n (xrref n M)) sel (n - M.length) = 0 → sel = 0

/-! ### The whole machine -/

/-- 60_exceptions.md R410, R411, 20_memory.md R115: every command ends in one completion, counted once, with its opcode in
LASTOP; it writes neither BANK0, BDIM0 nor CTRL; with an error it writes no register, bank, dimension, pivot or conjugate. -/
def Obligations.EveryCommandEnds : Prop :=
  ∀ (i : Instr) (s : State), ∃ t, exec i s = .next t ∧ t.ie = s.ie ∧ t.pending = s.pending ∧ t.replies = s.replies ∧
    t.dim 0 = s.dim 0 ∧ (∀ r, t.bankRow 0 r = s.bankRow 0 r) ∧
    ((∃ nf, EndsOk (BitVec.ofNat 8 i.opcode) nf s t) ∨
      ∃ e : ErrorCode, EndsError (BitVec.ofNat 8 i.opcode) e.code s t ∧ SameRegsBut [] s t ∧ SameBanksBut [] s t ∧
        SamePivots s t ∧ SameConj s t)

/-- The invariant of the core: the field context as FCFG leaves it (10_state.md R60 to R64), coherent caches (R84), a
consistent STATUS (R54) and counts in range (R71 to R73). Every step keeps it, whatever the host does. -/
def Obligations.StepKeepsCoreInvariant : Prop :=
  ∀ s t : State, CoreInv s → step s = .next t → CoreInv t

/-- The core right after reset satisfies its invariant. -/
def Obligations.ResetSatisfiesCoreInvariant : Prop := CoreInv State.reset

/-- 10_state.md R84: what the caches hold changes nothing a command does but the caches themselves. -/
def Obligations.CachesAreTransparent : Prop :=
  ∀ (i : Instr) (s t : State) (c : Caches), exec i s = .next t →
    ∃ c', exec i { s with caches := c } = .next { t with caches := c' }
end

