-- ==== Sys2Proof/Laws/Decode.lean ====
section
/-! SUPPORT. The fields of a command word: laying fields out in a word and reading them back. -/

namespace Sys2Proof

/-- The fields of a word laid out from fields in range are those fields. -/
theorem Fields.ofWord_toWord (f : Fields) (hop : f.op < 2 ^ 8) (hrsv : f.rsv < 2 ^ 8) (hhigh : f.high < 2 ^ 32) :
    Fields.ofWord f.toWord = f := by
  obtain ⟨op, rd, rs1, rs2, rd2, rd3, ff, rsv, high⟩ := f
  simp only at hop hrsv hhigh
  have h1 := rd.isLt; have h2 := rs1.isLt; have h3 := rs2.isLt; have h4 := rd2.isLt; have h5 := rd3.isLt
  have hf : ff.toNat < 2 := Bool.toNat_lt ff
  have hfb : (ff.toNat == 1) = ff := by cases ff <;> rfl
  simp only [Fields.ofWord, Fields.toWord, regField, bits, BitVec.toNat_ofNat, Fields.mk.injEq, Fin.ext_iff,
    Fin.val_ofNat]
  refine ⟨by omega, by omega, by omega, by omega, by omega, by omega, ?_, by omega, by omega⟩
  rw [show (op + rd.val * 2 ^ 8 + rs1.val * 2 ^ 11 + rs2.val * 2 ^ 14 + rd2.val * 2 ^ 17 + rd3.val * 2 ^ 20
      + ff.toNat * 2 ^ 23 + rsv * 2 ^ 24 + high * 2 ^ 32) % 2 ^ 64 / 2 ^ 23 % 2 ^ (23 + 1 - 23) = ff.toNat by omega]
  exact hfb

/-- Every opcode is an 8-bit number. -/
theorem Instr.opcode_lt (i : Instr) : i.opcode < 2 ^ 8 := by
  cases i <;> (simp only [Instr.opcode]; decide)

end Sys2Proof
end

