-- ==== Sys2Proof/Laws/State.lean ====
section
/-! SUPPORT. The small lemmas of State: one per field per update, each true by rfl, so that no proof unfolds a record
update; and what the readers `reg`, `dim` and `bankRow` give after each update. -/

namespace Sys2Proof.Machine

@[simp] theorem State.setReg_g (s : State) (r : Reg) (v : Word) : (s.setReg r v).g = s.g.set r.val v r.isLt := rfl
@[simp] theorem State.setReg_status (s : State) (r : Reg) (v : Word) : (s.setReg r v).status = s.status := rfl
@[simp] theorem State.setReg_ie (s : State) (r : Reg) (v : Word) : (s.setReg r v).ie = s.ie := rfl
@[simp] theorem State.setReg_cmdCount (s : State) (r : Reg) (v : Word) : (s.setReg r v).cmdCount = s.cmdCount := rfl
@[simp] theorem State.setReg_busy (s : State) (r : Reg) (v : Word) : (s.setReg r v).busy = s.busy := rfl
@[simp] theorem State.setReg_field (s : State) (r : Reg) (v : Word) : (s.setReg r v).field = s.field := rfl
@[simp] theorem State.setReg_dims (s : State) (r : Reg) (v : Word) : (s.setReg r v).dims = s.dims := rfl
@[simp] theorem State.setReg_banks (s : State) (r : Reg) (v : Word) : (s.setReg r v).banks = s.banks := rfl
@[simp] theorem State.setReg_pivCnt (s : State) (r : Reg) (v : Word) : (s.setReg r v).pivCnt = s.pivCnt := rfl
@[simp] theorem State.setReg_piv (s : State) (r : Reg) (v : Word) : (s.setReg r v).piv = s.piv := rfl
@[simp] theorem State.setReg_conjCnt (s : State) (r : Reg) (v : Word) : (s.setReg r v).conjCnt = s.conjCnt := rfl
@[simp] theorem State.setReg_conj (s : State) (r : Reg) (v : Word) : (s.setReg r v).conj = s.conj := rfl
@[simp] theorem State.setReg_caches (s : State) (r : Reg) (v : Word) : (s.setReg r v).caches = s.caches := rfl
@[simp] theorem State.setReg_delay (s : State) (r : Reg) (v : Word) : (s.setReg r v).delay = s.delay := rfl
@[simp] theorem State.setReg_pending (s : State) (r : Reg) (v : Word) : (s.setReg r v).pending = s.pending := rfl
@[simp] theorem State.setReg_replies (s : State) (r : Reg) (v : Word) : (s.setReg r v).replies = s.replies := rfl
@[simp] theorem State.setReg_draws (s : State) (r : Reg) (v : Word) : (s.setReg r v).draws = s.draws := rfl
@[simp] theorem State.setReg_dim (s : State) (r : Reg) (v : Word) (a : Fin 4) : (s.setReg r v).dim a = s.dim a := rfl
@[simp] theorem State.setReg_bankRow (s : State) (r : Reg) (v : Word) (a : Fin 4) (i : Fin 64) : (s.setReg r v).bankRow a i = s.bankRow a i := rfl

@[simp] theorem State.setField_g (s : State) (f : FieldCtx) : (s.setField f).g = s.g := rfl
@[simp] theorem State.setField_status (s : State) (f : FieldCtx) : (s.setField f).status = s.status := rfl
@[simp] theorem State.setField_ie (s : State) (f : FieldCtx) : (s.setField f).ie = s.ie := rfl
@[simp] theorem State.setField_cmdCount (s : State) (f : FieldCtx) : (s.setField f).cmdCount = s.cmdCount := rfl
@[simp] theorem State.setField_busy (s : State) (f : FieldCtx) : (s.setField f).busy = s.busy := rfl
@[simp] theorem State.setField_field (s : State) (f : FieldCtx) : (s.setField f).field = f := rfl
@[simp] theorem State.setField_dims (s : State) (f : FieldCtx) : (s.setField f).dims = s.dims := rfl
@[simp] theorem State.setField_banks (s : State) (f : FieldCtx) : (s.setField f).banks = s.banks := rfl
@[simp] theorem State.setField_pivCnt (s : State) (f : FieldCtx) : (s.setField f).pivCnt = s.pivCnt := rfl
@[simp] theorem State.setField_piv (s : State) (f : FieldCtx) : (s.setField f).piv = s.piv := rfl
@[simp] theorem State.setField_conjCnt (s : State) (f : FieldCtx) : (s.setField f).conjCnt = s.conjCnt := rfl
@[simp] theorem State.setField_conj (s : State) (f : FieldCtx) : (s.setField f).conj = s.conj := rfl
@[simp] theorem State.setField_caches (s : State) (f : FieldCtx) : (s.setField f).caches = s.caches := rfl
@[simp] theorem State.setField_delay (s : State) (f : FieldCtx) : (s.setField f).delay = s.delay := rfl
@[simp] theorem State.setField_pending (s : State) (f : FieldCtx) : (s.setField f).pending = s.pending := rfl
@[simp] theorem State.setField_replies (s : State) (f : FieldCtx) : (s.setField f).replies = s.replies := rfl
@[simp] theorem State.setField_draws (s : State) (f : FieldCtx) : (s.setField f).draws = s.draws := rfl
@[simp] theorem State.setField_reg (s : State) (f : FieldCtx) (q : Reg) : (s.setField f).reg q = s.reg q := rfl
@[simp] theorem State.setField_dim (s : State) (f : FieldCtx) (a : Fin 4) : (s.setField f).dim a = s.dim a := rfl
@[simp] theorem State.setField_bankRow (s : State) (f : FieldCtx) (a : Fin 4) (i : Fin 64) : (s.setField f).bankRow a i = s.bankRow a i := rfl

@[simp] theorem State.setDim_g (s : State) (b : Fin 4) (d : Dim) : (s.setDim b d).g = s.g := rfl
@[simp] theorem State.setDim_status (s : State) (b : Fin 4) (d : Dim) : (s.setDim b d).status = s.status := rfl
@[simp] theorem State.setDim_ie (s : State) (b : Fin 4) (d : Dim) : (s.setDim b d).ie = s.ie := rfl
@[simp] theorem State.setDim_cmdCount (s : State) (b : Fin 4) (d : Dim) : (s.setDim b d).cmdCount = s.cmdCount := rfl
@[simp] theorem State.setDim_busy (s : State) (b : Fin 4) (d : Dim) : (s.setDim b d).busy = s.busy := rfl
@[simp] theorem State.setDim_field (s : State) (b : Fin 4) (d : Dim) : (s.setDim b d).field = s.field := rfl
@[simp] theorem State.setDim_banks (s : State) (b : Fin 4) (d : Dim) : (s.setDim b d).banks = s.banks := rfl
@[simp] theorem State.setDim_pivCnt (s : State) (b : Fin 4) (d : Dim) : (s.setDim b d).pivCnt = s.pivCnt := rfl
@[simp] theorem State.setDim_piv (s : State) (b : Fin 4) (d : Dim) : (s.setDim b d).piv = s.piv := rfl
@[simp] theorem State.setDim_conjCnt (s : State) (b : Fin 4) (d : Dim) : (s.setDim b d).conjCnt = s.conjCnt := rfl
@[simp] theorem State.setDim_conj (s : State) (b : Fin 4) (d : Dim) : (s.setDim b d).conj = s.conj := rfl
@[simp] theorem State.setDim_caches (s : State) (b : Fin 4) (d : Dim) : (s.setDim b d).caches = s.caches := rfl
@[simp] theorem State.setDim_delay (s : State) (b : Fin 4) (d : Dim) : (s.setDim b d).delay = s.delay := rfl
@[simp] theorem State.setDim_pending (s : State) (b : Fin 4) (d : Dim) : (s.setDim b d).pending = s.pending := rfl
@[simp] theorem State.setDim_replies (s : State) (b : Fin 4) (d : Dim) : (s.setDim b d).replies = s.replies := rfl
@[simp] theorem State.setDim_draws (s : State) (b : Fin 4) (d : Dim) : (s.setDim b d).draws = s.draws := rfl
@[simp] theorem State.setDim_reg (s : State) (b : Fin 4) (d : Dim) (q : Reg) : (s.setDim b d).reg q = s.reg q := rfl
@[simp] theorem State.setDim_bankRow (s : State) (b : Fin 4) (d : Dim) (a : Fin 4) (i : Fin 64) : (s.setDim b d).bankRow a i = s.bankRow a i := rfl

@[simp] theorem State.setBankRow_g (s : State) (b : Fin 4) (r : Fin 64) (v : Word) : (s.setBankRow b r v).g = s.g := rfl
@[simp] theorem State.setBankRow_status (s : State) (b : Fin 4) (r : Fin 64) (v : Word) : (s.setBankRow b r v).status = s.status := rfl
@[simp] theorem State.setBankRow_ie (s : State) (b : Fin 4) (r : Fin 64) (v : Word) : (s.setBankRow b r v).ie = s.ie := rfl
@[simp] theorem State.setBankRow_cmdCount (s : State) (b : Fin 4) (r : Fin 64) (v : Word) : (s.setBankRow b r v).cmdCount = s.cmdCount := rfl
@[simp] theorem State.setBankRow_busy (s : State) (b : Fin 4) (r : Fin 64) (v : Word) : (s.setBankRow b r v).busy = s.busy := rfl
@[simp] theorem State.setBankRow_field (s : State) (b : Fin 4) (r : Fin 64) (v : Word) : (s.setBankRow b r v).field = s.field := rfl
@[simp] theorem State.setBankRow_dims (s : State) (b : Fin 4) (r : Fin 64) (v : Word) : (s.setBankRow b r v).dims = s.dims := rfl
@[simp] theorem State.setBankRow_pivCnt (s : State) (b : Fin 4) (r : Fin 64) (v : Word) : (s.setBankRow b r v).pivCnt = s.pivCnt := rfl
@[simp] theorem State.setBankRow_piv (s : State) (b : Fin 4) (r : Fin 64) (v : Word) : (s.setBankRow b r v).piv = s.piv := rfl
@[simp] theorem State.setBankRow_conjCnt (s : State) (b : Fin 4) (r : Fin 64) (v : Word) : (s.setBankRow b r v).conjCnt = s.conjCnt := rfl
@[simp] theorem State.setBankRow_conj (s : State) (b : Fin 4) (r : Fin 64) (v : Word) : (s.setBankRow b r v).conj = s.conj := rfl
@[simp] theorem State.setBankRow_caches (s : State) (b : Fin 4) (r : Fin 64) (v : Word) : (s.setBankRow b r v).caches = s.caches := rfl
@[simp] theorem State.setBankRow_delay (s : State) (b : Fin 4) (r : Fin 64) (v : Word) : (s.setBankRow b r v).delay = s.delay := rfl
@[simp] theorem State.setBankRow_pending (s : State) (b : Fin 4) (r : Fin 64) (v : Word) : (s.setBankRow b r v).pending = s.pending := rfl
@[simp] theorem State.setBankRow_replies (s : State) (b : Fin 4) (r : Fin 64) (v : Word) : (s.setBankRow b r v).replies = s.replies := rfl
@[simp] theorem State.setBankRow_draws (s : State) (b : Fin 4) (r : Fin 64) (v : Word) : (s.setBankRow b r v).draws = s.draws := rfl
@[simp] theorem State.setBankRow_reg (s : State) (b : Fin 4) (r : Fin 64) (v : Word) (q : Reg) : (s.setBankRow b r v).reg q = s.reg q := rfl
@[simp] theorem State.setBankRow_dim (s : State) (b : Fin 4) (r : Fin 64) (v : Word) (a : Fin 4) : (s.setBankRow b r v).dim a = s.dim a := rfl

@[simp] theorem State.setBank_g (s : State) (b : Fin 4) (m : Bank) : (s.setBank b m).g = s.g := rfl
@[simp] theorem State.setBank_status (s : State) (b : Fin 4) (m : Bank) : (s.setBank b m).status = s.status := rfl
@[simp] theorem State.setBank_ie (s : State) (b : Fin 4) (m : Bank) : (s.setBank b m).ie = s.ie := rfl
@[simp] theorem State.setBank_cmdCount (s : State) (b : Fin 4) (m : Bank) : (s.setBank b m).cmdCount = s.cmdCount := rfl
@[simp] theorem State.setBank_busy (s : State) (b : Fin 4) (m : Bank) : (s.setBank b m).busy = s.busy := rfl
@[simp] theorem State.setBank_field (s : State) (b : Fin 4) (m : Bank) : (s.setBank b m).field = s.field := rfl
@[simp] theorem State.setBank_dims (s : State) (b : Fin 4) (m : Bank) : (s.setBank b m).dims = s.dims := rfl
@[simp] theorem State.setBank_pivCnt (s : State) (b : Fin 4) (m : Bank) : (s.setBank b m).pivCnt = s.pivCnt := rfl
@[simp] theorem State.setBank_piv (s : State) (b : Fin 4) (m : Bank) : (s.setBank b m).piv = s.piv := rfl
@[simp] theorem State.setBank_conjCnt (s : State) (b : Fin 4) (m : Bank) : (s.setBank b m).conjCnt = s.conjCnt := rfl
@[simp] theorem State.setBank_conj (s : State) (b : Fin 4) (m : Bank) : (s.setBank b m).conj = s.conj := rfl
@[simp] theorem State.setBank_caches (s : State) (b : Fin 4) (m : Bank) : (s.setBank b m).caches = s.caches := rfl
@[simp] theorem State.setBank_delay (s : State) (b : Fin 4) (m : Bank) : (s.setBank b m).delay = s.delay := rfl
@[simp] theorem State.setBank_pending (s : State) (b : Fin 4) (m : Bank) : (s.setBank b m).pending = s.pending := rfl
@[simp] theorem State.setBank_replies (s : State) (b : Fin 4) (m : Bank) : (s.setBank b m).replies = s.replies := rfl
@[simp] theorem State.setBank_draws (s : State) (b : Fin 4) (m : Bank) : (s.setBank b m).draws = s.draws := rfl
@[simp] theorem State.setBank_reg (s : State) (b : Fin 4) (m : Bank) (q : Reg) : (s.setBank b m).reg q = s.reg q := rfl
@[simp] theorem State.setBank_dim (s : State) (b : Fin 4) (m : Bank) (a : Fin 4) : (s.setBank b m).dim a = s.dim a := rfl

@[simp] theorem State.setPivots_g (s : State) (p : List Nat) : (s.setPivots p).g = s.g := rfl
@[simp] theorem State.setPivots_status (s : State) (p : List Nat) : (s.setPivots p).status = s.status := rfl
@[simp] theorem State.setPivots_ie (s : State) (p : List Nat) : (s.setPivots p).ie = s.ie := rfl
@[simp] theorem State.setPivots_cmdCount (s : State) (p : List Nat) : (s.setPivots p).cmdCount = s.cmdCount := rfl
@[simp] theorem State.setPivots_busy (s : State) (p : List Nat) : (s.setPivots p).busy = s.busy := rfl
@[simp] theorem State.setPivots_field (s : State) (p : List Nat) : (s.setPivots p).field = s.field := rfl
@[simp] theorem State.setPivots_dims (s : State) (p : List Nat) : (s.setPivots p).dims = s.dims := rfl
@[simp] theorem State.setPivots_banks (s : State) (p : List Nat) : (s.setPivots p).banks = s.banks := rfl
@[simp] theorem State.setPivots_conjCnt (s : State) (p : List Nat) : (s.setPivots p).conjCnt = s.conjCnt := rfl
@[simp] theorem State.setPivots_conj (s : State) (p : List Nat) : (s.setPivots p).conj = s.conj := rfl
@[simp] theorem State.setPivots_caches (s : State) (p : List Nat) : (s.setPivots p).caches = s.caches := rfl
@[simp] theorem State.setPivots_delay (s : State) (p : List Nat) : (s.setPivots p).delay = s.delay := rfl
@[simp] theorem State.setPivots_pending (s : State) (p : List Nat) : (s.setPivots p).pending = s.pending := rfl
@[simp] theorem State.setPivots_replies (s : State) (p : List Nat) : (s.setPivots p).replies = s.replies := rfl
@[simp] theorem State.setPivots_draws (s : State) (p : List Nat) : (s.setPivots p).draws = s.draws := rfl
@[simp] theorem State.setPivots_reg (s : State) (p : List Nat) (q : Reg) : (s.setPivots p).reg q = s.reg q := rfl
@[simp] theorem State.setPivots_dim (s : State) (p : List Nat) (a : Fin 4) : (s.setPivots p).dim a = s.dim a := rfl
@[simp] theorem State.setPivots_bankRow (s : State) (p : List Nat) (a : Fin 4) (i : Fin 64) : (s.setPivots p).bankRow a i = s.bankRow a i := rfl

@[simp] theorem State.setConj_g (s : State) (cs : List Nat) : (s.setConj cs).g = s.g := rfl
@[simp] theorem State.setConj_status (s : State) (cs : List Nat) : (s.setConj cs).status = s.status := rfl
@[simp] theorem State.setConj_ie (s : State) (cs : List Nat) : (s.setConj cs).ie = s.ie := rfl
@[simp] theorem State.setConj_cmdCount (s : State) (cs : List Nat) : (s.setConj cs).cmdCount = s.cmdCount := rfl
@[simp] theorem State.setConj_busy (s : State) (cs : List Nat) : (s.setConj cs).busy = s.busy := rfl
@[simp] theorem State.setConj_field (s : State) (cs : List Nat) : (s.setConj cs).field = s.field := rfl
@[simp] theorem State.setConj_dims (s : State) (cs : List Nat) : (s.setConj cs).dims = s.dims := rfl
@[simp] theorem State.setConj_banks (s : State) (cs : List Nat) : (s.setConj cs).banks = s.banks := rfl
@[simp] theorem State.setConj_pivCnt (s : State) (cs : List Nat) : (s.setConj cs).pivCnt = s.pivCnt := rfl
@[simp] theorem State.setConj_piv (s : State) (cs : List Nat) : (s.setConj cs).piv = s.piv := rfl
@[simp] theorem State.setConj_caches (s : State) (cs : List Nat) : (s.setConj cs).caches = s.caches := rfl
@[simp] theorem State.setConj_delay (s : State) (cs : List Nat) : (s.setConj cs).delay = s.delay := rfl
@[simp] theorem State.setConj_pending (s : State) (cs : List Nat) : (s.setConj cs).pending = s.pending := rfl
@[simp] theorem State.setConj_replies (s : State) (cs : List Nat) : (s.setConj cs).replies = s.replies := rfl
@[simp] theorem State.setConj_draws (s : State) (cs : List Nat) : (s.setConj cs).draws = s.draws := rfl
@[simp] theorem State.setConj_reg (s : State) (cs : List Nat) (q : Reg) : (s.setConj cs).reg q = s.reg q := rfl
@[simp] theorem State.setConj_dim (s : State) (cs : List Nat) (a : Fin 4) : (s.setConj cs).dim a = s.dim a := rfl
@[simp] theorem State.setConj_bankRow (s : State) (cs : List Nat) (a : Fin 4) (i : Fin 64) : (s.setConj cs).bankRow a i = s.bankRow a i := rfl

@[simp] theorem State.flushCaches_g (s : State) : (s.flushCaches).g = s.g := rfl
@[simp] theorem State.flushCaches_status (s : State) : (s.flushCaches).status = s.status := rfl
@[simp] theorem State.flushCaches_ie (s : State) : (s.flushCaches).ie = s.ie := rfl
@[simp] theorem State.flushCaches_cmdCount (s : State) : (s.flushCaches).cmdCount = s.cmdCount := rfl
@[simp] theorem State.flushCaches_busy (s : State) : (s.flushCaches).busy = s.busy := rfl
@[simp] theorem State.flushCaches_field (s : State) : (s.flushCaches).field = s.field := rfl
@[simp] theorem State.flushCaches_dims (s : State) : (s.flushCaches).dims = s.dims := rfl
@[simp] theorem State.flushCaches_banks (s : State) : (s.flushCaches).banks = s.banks := rfl
@[simp] theorem State.flushCaches_pivCnt (s : State) : (s.flushCaches).pivCnt = s.pivCnt := rfl
@[simp] theorem State.flushCaches_piv (s : State) : (s.flushCaches).piv = s.piv := rfl
@[simp] theorem State.flushCaches_conjCnt (s : State) : (s.flushCaches).conjCnt = s.conjCnt := rfl
@[simp] theorem State.flushCaches_conj (s : State) : (s.flushCaches).conj = s.conj := rfl
@[simp] theorem State.flushCaches_caches (s : State) : (s.flushCaches).caches = Caches.empty := rfl
@[simp] theorem State.flushCaches_delay (s : State) : (s.flushCaches).delay = s.delay := rfl
@[simp] theorem State.flushCaches_pending (s : State) : (s.flushCaches).pending = s.pending := rfl
@[simp] theorem State.flushCaches_replies (s : State) : (s.flushCaches).replies = s.replies := rfl
@[simp] theorem State.flushCaches_draws (s : State) : (s.flushCaches).draws = s.draws := rfl
@[simp] theorem State.flushCaches_reg (s : State) (q : Reg) : (s.flushCaches).reg q = s.reg q := rfl
@[simp] theorem State.flushCaches_dim (s : State) (a : Fin 4) : (s.flushCaches).dim a = s.dim a := rfl
@[simp] theorem State.flushCaches_bankRow (s : State) (a : Fin 4) (i : Fin 64) : (s.flushCaches).bankRow a i = s.bankRow a i := rfl

@[simp] theorem State.useCaches_g (s : State) (u : CacheUse) : (s.useCaches u).g = s.g := rfl
@[simp] theorem State.useCaches_status (s : State) (u : CacheUse) : (s.useCaches u).status = s.status := rfl
@[simp] theorem State.useCaches_ie (s : State) (u : CacheUse) : (s.useCaches u).ie = s.ie := rfl
@[simp] theorem State.useCaches_cmdCount (s : State) (u : CacheUse) : (s.useCaches u).cmdCount = s.cmdCount := rfl
@[simp] theorem State.useCaches_busy (s : State) (u : CacheUse) : (s.useCaches u).busy = s.busy := rfl
@[simp] theorem State.useCaches_field (s : State) (u : CacheUse) : (s.useCaches u).field = s.field := rfl
@[simp] theorem State.useCaches_dims (s : State) (u : CacheUse) : (s.useCaches u).dims = s.dims := rfl
@[simp] theorem State.useCaches_banks (s : State) (u : CacheUse) : (s.useCaches u).banks = s.banks := rfl
@[simp] theorem State.useCaches_pivCnt (s : State) (u : CacheUse) : (s.useCaches u).pivCnt = s.pivCnt := rfl
@[simp] theorem State.useCaches_piv (s : State) (u : CacheUse) : (s.useCaches u).piv = s.piv := rfl
@[simp] theorem State.useCaches_conjCnt (s : State) (u : CacheUse) : (s.useCaches u).conjCnt = s.conjCnt := rfl
@[simp] theorem State.useCaches_conj (s : State) (u : CacheUse) : (s.useCaches u).conj = s.conj := rfl
@[simp] theorem State.useCaches_delay (s : State) (u : CacheUse) : (s.useCaches u).delay = s.delay := rfl
@[simp] theorem State.useCaches_pending (s : State) (u : CacheUse) : (s.useCaches u).pending = s.pending := rfl
@[simp] theorem State.useCaches_replies (s : State) (u : CacheUse) : (s.useCaches u).replies = s.replies := rfl
@[simp] theorem State.useCaches_draws (s : State) (u : CacheUse) : (s.useCaches u).draws = s.draws + 1 := rfl
@[simp] theorem State.useCaches_reg (s : State) (u : CacheUse) (q : Reg) : (s.useCaches u).reg q = s.reg q := rfl
@[simp] theorem State.useCaches_dim (s : State) (u : CacheUse) (a : Fin 4) : (s.useCaches u).dim a = s.dim a := rfl
@[simp] theorem State.useCaches_bankRow (s : State) (u : CacheUse) (a : Fin 4) (i : Fin 64) : (s.useCaches u).bankRow a i = s.bankRow a i := rfl

@[simp] theorem State.completeOk_g (s : State) (op : BitVec 8) (nf : Bool) : (s.completeOk op nf).g = s.g := rfl
@[simp] theorem State.completeOk_status (s : State) (op : BitVec 8) (nf : Bool) : (s.completeOk op nf).status = s.status.completedOk op nf := rfl
@[simp] theorem State.completeOk_ie (s : State) (op : BitVec 8) (nf : Bool) : (s.completeOk op nf).ie = s.ie := rfl
@[simp] theorem State.completeOk_cmdCount (s : State) (op : BitVec 8) (nf : Bool) : (s.completeOk op nf).cmdCount = s.cmdCount + 1 := rfl
@[simp] theorem State.completeOk_busy (s : State) (op : BitVec 8) (nf : Bool) : (s.completeOk op nf).busy = none := rfl
@[simp] theorem State.completeOk_field (s : State) (op : BitVec 8) (nf : Bool) : (s.completeOk op nf).field = s.field := rfl
@[simp] theorem State.completeOk_dims (s : State) (op : BitVec 8) (nf : Bool) : (s.completeOk op nf).dims = s.dims := rfl
@[simp] theorem State.completeOk_banks (s : State) (op : BitVec 8) (nf : Bool) : (s.completeOk op nf).banks = s.banks := rfl
@[simp] theorem State.completeOk_pivCnt (s : State) (op : BitVec 8) (nf : Bool) : (s.completeOk op nf).pivCnt = s.pivCnt := rfl
@[simp] theorem State.completeOk_piv (s : State) (op : BitVec 8) (nf : Bool) : (s.completeOk op nf).piv = s.piv := rfl
@[simp] theorem State.completeOk_conjCnt (s : State) (op : BitVec 8) (nf : Bool) : (s.completeOk op nf).conjCnt = s.conjCnt := rfl
@[simp] theorem State.completeOk_conj (s : State) (op : BitVec 8) (nf : Bool) : (s.completeOk op nf).conj = s.conj := rfl
@[simp] theorem State.completeOk_caches (s : State) (op : BitVec 8) (nf : Bool) : (s.completeOk op nf).caches = s.caches := rfl
@[simp] theorem State.completeOk_delay (s : State) (op : BitVec 8) (nf : Bool) : (s.completeOk op nf).delay = s.delay := rfl
@[simp] theorem State.completeOk_pending (s : State) (op : BitVec 8) (nf : Bool) : (s.completeOk op nf).pending = s.pending := rfl
@[simp] theorem State.completeOk_replies (s : State) (op : BitVec 8) (nf : Bool) : (s.completeOk op nf).replies = s.replies := rfl
@[simp] theorem State.completeOk_draws (s : State) (op : BitVec 8) (nf : Bool) : (s.completeOk op nf).draws = s.draws := rfl
@[simp] theorem State.completeOk_reg (s : State) (op : BitVec 8) (nf : Bool) (q : Reg) : (s.completeOk op nf).reg q = s.reg q := rfl
@[simp] theorem State.completeOk_dim (s : State) (op : BitVec 8) (nf : Bool) (a : Fin 4) : (s.completeOk op nf).dim a = s.dim a := rfl
@[simp] theorem State.completeOk_bankRow (s : State) (op : BitVec 8) (nf : Bool) (a : Fin 4) (i : Fin 64) : (s.completeOk op nf).bankRow a i = s.bankRow a i := rfl

@[simp] theorem State.completeError_g (s : State) (op : BitVec 8) (e : ErrorCode) : (s.completeError op e).g = s.g := rfl
@[simp] theorem State.completeError_status (s : State) (op : BitVec 8) (e : ErrorCode) : (s.completeError op e).status = s.status.completedError op e := rfl
@[simp] theorem State.completeError_ie (s : State) (op : BitVec 8) (e : ErrorCode) : (s.completeError op e).ie = s.ie := rfl
@[simp] theorem State.completeError_cmdCount (s : State) (op : BitVec 8) (e : ErrorCode) : (s.completeError op e).cmdCount = s.cmdCount + 1 := rfl
@[simp] theorem State.completeError_busy (s : State) (op : BitVec 8) (e : ErrorCode) : (s.completeError op e).busy = none := rfl
@[simp] theorem State.completeError_field (s : State) (op : BitVec 8) (e : ErrorCode) : (s.completeError op e).field = s.field := rfl
@[simp] theorem State.completeError_dims (s : State) (op : BitVec 8) (e : ErrorCode) : (s.completeError op e).dims = s.dims := rfl
@[simp] theorem State.completeError_banks (s : State) (op : BitVec 8) (e : ErrorCode) : (s.completeError op e).banks = s.banks := rfl
@[simp] theorem State.completeError_pivCnt (s : State) (op : BitVec 8) (e : ErrorCode) : (s.completeError op e).pivCnt = s.pivCnt := rfl
@[simp] theorem State.completeError_piv (s : State) (op : BitVec 8) (e : ErrorCode) : (s.completeError op e).piv = s.piv := rfl
@[simp] theorem State.completeError_conjCnt (s : State) (op : BitVec 8) (e : ErrorCode) : (s.completeError op e).conjCnt = s.conjCnt := rfl
@[simp] theorem State.completeError_conj (s : State) (op : BitVec 8) (e : ErrorCode) : (s.completeError op e).conj = s.conj := rfl
@[simp] theorem State.completeError_caches (s : State) (op : BitVec 8) (e : ErrorCode) : (s.completeError op e).caches = s.caches := rfl
@[simp] theorem State.completeError_delay (s : State) (op : BitVec 8) (e : ErrorCode) : (s.completeError op e).delay = s.delay := rfl
@[simp] theorem State.completeError_pending (s : State) (op : BitVec 8) (e : ErrorCode) : (s.completeError op e).pending = s.pending := rfl
@[simp] theorem State.completeError_replies (s : State) (op : BitVec 8) (e : ErrorCode) : (s.completeError op e).replies = s.replies := rfl
@[simp] theorem State.completeError_draws (s : State) (op : BitVec 8) (e : ErrorCode) : (s.completeError op e).draws = s.draws := rfl
@[simp] theorem State.completeError_reg (s : State) (op : BitVec 8) (e : ErrorCode) (q : Reg) : (s.completeError op e).reg q = s.reg q := rfl
@[simp] theorem State.completeError_dim (s : State) (op : BitVec 8) (e : ErrorCode) (a : Fin 4) : (s.completeError op e).dim a = s.dim a := rfl
@[simp] theorem State.completeError_bankRow (s : State) (op : BitVec 8) (e : ErrorCode) (a : Fin 4) (i : Fin 64) : (s.completeError op e).bankRow a i = s.bankRow a i := rfl

@[simp] theorem State.collide_g (s : State) : (s.collide).g = s.g := rfl
@[simp] theorem State.collide_status (s : State) : (s.collide).status = s.status.collided := rfl
@[simp] theorem State.collide_ie (s : State) : (s.collide).ie = s.ie := rfl
@[simp] theorem State.collide_cmdCount (s : State) : (s.collide).cmdCount = s.cmdCount := rfl
@[simp] theorem State.collide_busy (s : State) : (s.collide).busy = s.busy := rfl
@[simp] theorem State.collide_field (s : State) : (s.collide).field = s.field := rfl
@[simp] theorem State.collide_dims (s : State) : (s.collide).dims = s.dims := rfl
@[simp] theorem State.collide_banks (s : State) : (s.collide).banks = s.banks := rfl
@[simp] theorem State.collide_pivCnt (s : State) : (s.collide).pivCnt = s.pivCnt := rfl
@[simp] theorem State.collide_piv (s : State) : (s.collide).piv = s.piv := rfl
@[simp] theorem State.collide_conjCnt (s : State) : (s.collide).conjCnt = s.conjCnt := rfl
@[simp] theorem State.collide_conj (s : State) : (s.collide).conj = s.conj := rfl
@[simp] theorem State.collide_caches (s : State) : (s.collide).caches = s.caches := rfl
@[simp] theorem State.collide_delay (s : State) : (s.collide).delay = s.delay := rfl
@[simp] theorem State.collide_pending (s : State) : (s.collide).pending = s.pending := rfl
@[simp] theorem State.collide_replies (s : State) : (s.collide).replies = s.replies := rfl
@[simp] theorem State.collide_draws (s : State) : (s.collide).draws = s.draws := rfl
@[simp] theorem State.collide_reg (s : State) (q : Reg) : (s.collide).reg q = s.reg q := rfl
@[simp] theorem State.collide_dim (s : State) (a : Fin 4) : (s.collide).dim a = s.dim a := rfl
@[simp] theorem State.collide_bankRow (s : State) (a : Fin 4) (i : Fin 64) : (s.collide).bankRow a i = s.bankRow a i := rfl

@[simp] theorem State.accept_g (s : State) (w : Word) : (s.accept w).g = s.g := rfl
@[simp] theorem State.accept_status (s : State) (w : Word) : (s.accept w).status = s.status.accepted := rfl
@[simp] theorem State.accept_ie (s : State) (w : Word) : (s.accept w).ie = s.ie := rfl
@[simp] theorem State.accept_cmdCount (s : State) (w : Word) : (s.accept w).cmdCount = s.cmdCount := rfl
@[simp] theorem State.accept_busy (s : State) (w : Word) : (s.accept w).busy = some w := rfl
@[simp] theorem State.accept_field (s : State) (w : Word) : (s.accept w).field = s.field := rfl
@[simp] theorem State.accept_dims (s : State) (w : Word) : (s.accept w).dims = s.dims := rfl
@[simp] theorem State.accept_banks (s : State) (w : Word) : (s.accept w).banks = s.banks := rfl
@[simp] theorem State.accept_pivCnt (s : State) (w : Word) : (s.accept w).pivCnt = s.pivCnt := rfl
@[simp] theorem State.accept_piv (s : State) (w : Word) : (s.accept w).piv = s.piv := rfl
@[simp] theorem State.accept_conjCnt (s : State) (w : Word) : (s.accept w).conjCnt = s.conjCnt := rfl
@[simp] theorem State.accept_conj (s : State) (w : Word) : (s.accept w).conj = s.conj := rfl
@[simp] theorem State.accept_caches (s : State) (w : Word) : (s.accept w).caches = s.caches := rfl
@[simp] theorem State.accept_pending (s : State) (w : Word) : (s.accept w).pending = s.pending := rfl
@[simp] theorem State.accept_replies (s : State) (w : Word) : (s.accept w).replies = s.replies := rfl
@[simp] theorem State.accept_draws (s : State) (w : Word) : (s.accept w).draws = s.draws + 1 := rfl
@[simp] theorem State.accept_reg (s : State) (w : Word) (q : Reg) : (s.accept w).reg q = s.reg q := rfl
@[simp] theorem State.accept_dim (s : State) (w : Word) (a : Fin 4) : (s.accept w).dim a = s.dim a := rfl
@[simp] theorem State.accept_bankRow (s : State) (w : Word) (a : Fin 4) (i : Fin 64) : (s.accept w).bankRow a i = s.bankRow a i := rfl

@[simp] theorem State.writeCtrl_g (s : State) (v : Word) : (s.writeCtrl v).g = s.g := rfl
@[simp] theorem State.writeCtrl_status (s : State) (v : Word) : (s.writeCtrl v).status = s.status.ctrlCleared (v.getLsbD 1) (v.getLsbD 2) := rfl
@[simp] theorem State.writeCtrl_ie (s : State) (v : Word) : (s.writeCtrl v).ie = v.getLsbD 0 := rfl
@[simp] theorem State.writeCtrl_cmdCount (s : State) (v : Word) : (s.writeCtrl v).cmdCount = s.cmdCount := rfl
@[simp] theorem State.writeCtrl_busy (s : State) (v : Word) : (s.writeCtrl v).busy = s.busy := rfl
@[simp] theorem State.writeCtrl_field (s : State) (v : Word) : (s.writeCtrl v).field = s.field := rfl
@[simp] theorem State.writeCtrl_dims (s : State) (v : Word) : (s.writeCtrl v).dims = s.dims := rfl
@[simp] theorem State.writeCtrl_banks (s : State) (v : Word) : (s.writeCtrl v).banks = s.banks := rfl
@[simp] theorem State.writeCtrl_pivCnt (s : State) (v : Word) : (s.writeCtrl v).pivCnt = s.pivCnt := rfl
@[simp] theorem State.writeCtrl_piv (s : State) (v : Word) : (s.writeCtrl v).piv = s.piv := rfl
@[simp] theorem State.writeCtrl_conjCnt (s : State) (v : Word) : (s.writeCtrl v).conjCnt = s.conjCnt := rfl
@[simp] theorem State.writeCtrl_conj (s : State) (v : Word) : (s.writeCtrl v).conj = s.conj := rfl
@[simp] theorem State.writeCtrl_caches (s : State) (v : Word) : (s.writeCtrl v).caches = s.caches := rfl
@[simp] theorem State.writeCtrl_delay (s : State) (v : Word) : (s.writeCtrl v).delay = s.delay := rfl
@[simp] theorem State.writeCtrl_pending (s : State) (v : Word) : (s.writeCtrl v).pending = s.pending := rfl
@[simp] theorem State.writeCtrl_replies (s : State) (v : Word) : (s.writeCtrl v).replies = s.replies := rfl
@[simp] theorem State.writeCtrl_draws (s : State) (v : Word) : (s.writeCtrl v).draws = s.draws := rfl
@[simp] theorem State.writeCtrl_reg (s : State) (v : Word) (q : Reg) : (s.writeCtrl v).reg q = s.reg q := rfl
@[simp] theorem State.writeCtrl_dim (s : State) (v : Word) (a : Fin 4) : (s.writeCtrl v).dim a = s.dim a := rfl
@[simp] theorem State.writeCtrl_bankRow (s : State) (v : Word) (a : Fin 4) (i : Fin 64) : (s.writeCtrl v).bankRow a i = s.bankRow a i := rfl

@[simp] theorem State.reply_g (s : State) (r : HostReply) : (s.reply r).g = s.g := rfl
@[simp] theorem State.reply_status (s : State) (r : HostReply) : (s.reply r).status = s.status := rfl
@[simp] theorem State.reply_ie (s : State) (r : HostReply) : (s.reply r).ie = s.ie := rfl
@[simp] theorem State.reply_cmdCount (s : State) (r : HostReply) : (s.reply r).cmdCount = s.cmdCount := rfl
@[simp] theorem State.reply_busy (s : State) (r : HostReply) : (s.reply r).busy = s.busy := rfl
@[simp] theorem State.reply_field (s : State) (r : HostReply) : (s.reply r).field = s.field := rfl
@[simp] theorem State.reply_dims (s : State) (r : HostReply) : (s.reply r).dims = s.dims := rfl
@[simp] theorem State.reply_banks (s : State) (r : HostReply) : (s.reply r).banks = s.banks := rfl
@[simp] theorem State.reply_pivCnt (s : State) (r : HostReply) : (s.reply r).pivCnt = s.pivCnt := rfl
@[simp] theorem State.reply_piv (s : State) (r : HostReply) : (s.reply r).piv = s.piv := rfl
@[simp] theorem State.reply_conjCnt (s : State) (r : HostReply) : (s.reply r).conjCnt = s.conjCnt := rfl
@[simp] theorem State.reply_conj (s : State) (r : HostReply) : (s.reply r).conj = s.conj := rfl
@[simp] theorem State.reply_caches (s : State) (r : HostReply) : (s.reply r).caches = s.caches := rfl
@[simp] theorem State.reply_delay (s : State) (r : HostReply) : (s.reply r).delay = s.delay := rfl
@[simp] theorem State.reply_pending (s : State) (r : HostReply) : (s.reply r).pending = s.pending := rfl
@[simp] theorem State.reply_replies (s : State) (r : HostReply) : (s.reply r).replies = r :: s.replies := rfl
@[simp] theorem State.reply_draws (s : State) (r : HostReply) : (s.reply r).draws = s.draws := rfl
@[simp] theorem State.reply_reg (s : State) (r : HostReply) (q : Reg) : (s.reply r).reg q = s.reg q := rfl
@[simp] theorem State.reply_dim (s : State) (r : HostReply) (a : Fin 4) : (s.reply r).dim a = s.dim a := rfl
@[simp] theorem State.reply_bankRow (s : State) (r : HostReply) (a : Fin 4) (i : Fin 64) : (s.reply r).bankRow a i = s.bankRow a i := rfl

@[simp] theorem State.setPoly_eq (s : State) (r : Reg) (a : Nat) : s.setPoly r a = s.setReg r (BitVec.ofNat 64 a) := rfl

@[simp] theorem State.writeMatrix_eq (s : State) (b : Fin 4) (r c : Nat) (A : List Nat) :
    s.writeMatrix b r c A = (s.setBank b (bankOf r c A)).setDim b (Dim.ofNats r c) := rfl

/-- Read after write of a general register, whichever the two registers. -/
theorem State.reg_setReg (s : State) (r q : Reg) (v : Word) :
    (s.setReg r v).reg q = if q = r then v else s.reg q := by
  simp only [State.reg, State.setReg, Fin.getElem_fin, Vector.getElem_set]
  simp only [Fin.ext_iff, eq_comm]

@[simp] theorem State.reg_setReg_same (s : State) (r : Reg) (v : Word) : (s.setReg r v).reg r = v := by
  simp [State.reg_setReg]

theorem State.reg_setReg_ne (s : State) (r q : Reg) (v : Word) (h : q ≠ r) : (s.setReg r v).reg q = s.reg q := by
  simp [State.reg_setReg, h]

/-- Read after write of a bank dimension register, whichever the two. -/
theorem State.dim_setDim (s : State) (b a : Fin 4) (d : Dim) :
    (s.setDim b d).dim a = if a = b then d else s.dim a := by
  simp only [State.dim, State.setDim, Fin.getElem_fin, Vector.getElem_set]
  simp only [Fin.ext_iff, eq_comm]

/-- Read after write of a whole bank, whichever the two banks. -/
theorem State.bankRow_setBank (s : State) (b a : Fin 4) (m : Bank) (i : Fin 64) :
    (s.setBank b m).bankRow a i = if a = b then m[i] else s.bankRow a i := by
  simp only [State.bankRow, State.setBank, Fin.getElem_fin, Vector.getElem_set]
  by_cases h : a = b
  · subst h; simp
  · have h' : ¬b.val = a.val := fun e => h (Fin.ext e.symm)
    simp [h, h']

/-- Read after write of one bank row, whichever the two rows. -/
theorem State.bankRow_setBankRow (s : State) (b a : Fin 4) (r i : Fin 64) (v : Word) :
    (s.setBankRow b r v).bankRow a i = if a = b ∧ i = r then v else s.bankRow a i := by
  simp only [State.bankRow, State.setBankRow, Fin.getElem_fin, Vector.getElem_set]
  by_cases h : a = b
  · subst h
    by_cases hr : i = r
    · subst hr; simp
    · have hr' : ¬r.val = i.val := fun e => hr (Fin.ext e.symm)
      simp [hr, hr']
  · have h' : ¬b.val = a.val := fun e => h (Fin.ext e.symm)
    simp [h, h']

/-- Row i of the bank that holds an r×c matrix (42_matrix.md R333). -/
theorem bankOf_row (r c : Nat) (A : List Nat) (i : Fin 64) :
    (bankOf r c A)[i] = if i.val < r then BitVec.ofNat 64 (row A i.val % 2 ^ c) else 0 := by
  simp [bankOf]

end Sys2Proof.Machine
end

