-- ==== Sys2Proof/Laws/Ops.lean ====
section
/-! SUPPORT. One lemma per shared operation that says once what it can do; proofs cite these instead of unfolding. -/

namespace Sys2Proof.Machine

/-! ### Completion -/

/-- Completion without an error after writes that left STATUS, BUSY and CMD_COUNT alone. -/
theorem completeOk_endsOk (s t : State) (op : BitVec 8) (nf : Bool) (hst : t.status = s.status)
    (hc : t.cmdCount = s.cmdCount) : EndsOk op nf s (t.completeOk op nf) := by
  simp [EndsOk, Status.completedOk, hst, hc]

/-- Completion with an error after writes that left STATUS, BUSY and CMD_COUNT alone. -/
theorem completeError_endsError (s t : State) (op : BitVec 8) (e : ErrorCode) (hst : t.status = s.status)
    (hc : t.cmdCount = s.cmdCount) : EndsError op e.code s (t.completeError op e) := by
  simp [EndsError, Status.completedError, hst, hc]

/-- Completion with an error writes no destination. -/
theorem completeError_onlyRegs (s : State) (op : BitVec 8) (e : ErrorCode) :
    OnlyRegs [] s (s.completeError op e) ∧ SameCaches s (s.completeError op e) := by
  simp [OnlyRegs, SameRegsBut, SameField, SameBanksBut, SamePivots, SameConj, SameHost, SameCaches]

/-- Writing one register and completing changes that register alone. -/
theorem setReg_completeOk_onlyRegs (s : State) (r : Reg) (v : Word) (op : BitVec 8) (nf : Bool) :
    OnlyRegs [r] s ((s.setReg r v).completeOk op nf) := by
  refine ⟨fun q hq => ?_, rfl, fun _ _ => ⟨rfl, fun _ => rfl⟩, ⟨rfl, fun _ => rfl⟩, ⟨rfl, fun _ => rfl⟩,
    rfl, rfl, rfl, rfl⟩
  have hq' : q ≠ r := by simpa using hq
  simp [State.reg_setReg_ne _ _ _ _ hq']

/-- A division uses the reduction cache alone (40_ring.md R205). -/
theorem useCaches_division (s : State) : SameFieldCaches s (s.useCaches CacheUse.division) := ⟨rfl, rfl, rfl⟩

/-! ### Operand checks -/

theorem FieldCtx.isElement_iff (f : FieldCtx) (a : Nat) : f.isElement a = true ↔ a < 2 ^ f.degree := by
  simp [FieldCtx.isElement]

/-- The operand check passes exactly when a field is valid and every operand is a field element. -/
theorem FieldCtx.operandError_eq_none (f : FieldCtx) (l : List Nat) :
    f.operandError l = none ↔ f.fv = true ∧ ∀ a ∈ l, a < 2 ^ f.degree := by
  unfold FieldCtx.operandError
  by_cases hf : f.fv = true <;> simp [hf, FieldCtx.isElement]

/-- The check of a field command: no field gives ENOFIELD, an operand out of range ERANGE, else the command's body. -/
theorem withElements_cases (s : State) (op : BitVec 8) (l : List Nat) (body : Result) :
    (s.field.fv = false ∧ s.withElements op l body = .next (s.completeError op .enofield)) ∨
      (s.field.fv = true ∧ (∃ a ∈ l, 2 ^ s.field.degree ≤ a) ∧
        s.withElements op l body = .next (s.completeError op .erange)) ∨
      (s.field.fv = true ∧ (∀ a ∈ l, a < 2 ^ s.field.degree) ∧ s.withElements op l body = body) := by
  unfold State.withElements FieldCtx.operandError
  cases hf : s.field.fv with
  | false => exact Or.inl ⟨rfl, by simp⟩
  | true =>
    by_cases hl : ∀ a ∈ l, a < 2 ^ s.field.degree
    · have h : l.all s.field.isElement = true := by simpa [FieldCtx.isElement] using hl
      exact Or.inr (Or.inr ⟨rfl, hl, by simp [h]⟩)
    · have h : l.all s.field.isElement = false := by
        simpa [FieldCtx.isElement] using hl
      refine Or.inr (Or.inl ⟨rfl, by simpa using hl, by simp [h]⟩)

theorem withElements_ok (s : State) (op : BitVec 8) (l : List Nat) (body : Result) (hf : s.field.fv = true)
    (hl : ∀ a ∈ l, a < 2 ^ s.field.degree) : s.withElements op l body = body := by
  rcases withElements_cases s op l body with ⟨h, _⟩ | ⟨_, ⟨a, ha, hlt⟩, _⟩ | ⟨_, _, h⟩
  · simp [hf] at h
  · exact absurd (hl a ha) (by omega)
  · exact h

theorem withElements_noField (s : State) (op : BitVec 8) (l : List Nat) (body : Result) (hf : s.field.fv = false) :
    s.withElements op l body = .next (s.completeError op .enofield) := by
  rcases withElements_cases s op l body with ⟨_, h⟩ | ⟨h, _⟩ | ⟨h, _⟩
  · exact h
  · simp [hf] at h
  · simp [hf] at h

theorem withElements_outOfRange (s : State) (op : BitVec 8) (l : List Nat) (body : Result) (hf : s.field.fv = true)
    (a : Nat) (ha : a ∈ l) (hlt : 2 ^ s.field.degree ≤ a) :
    s.withElements op l body = .next (s.completeError op .erange) := by
  rcases withElements_cases s op l body with ⟨h, _⟩ | ⟨_, _, h⟩ | ⟨_, h, _⟩
  · simp [hf] at h
  · exact h
  · exact absurd (h a ha) (by omega)

/-- The dimensions of the input are accepted exactly when both are 1 to 64. -/
theorem inputDims_eq_some (s : State) (k n : Nat) :
    s.inputDims = some (k, n) ↔
      k = (s.dim 0).rows.toNat ∧ n = (s.dim 0).cols.toNat ∧ 1 ≤ k ∧ k ≤ 64 ∧ 1 ≤ n ∧ n ≤ 64 := by
  unfold State.inputDims
  constructor
  · intro h
    dsimp only at h
    split at h
    · cases h; rename_i hd; exact ⟨rfl, rfl, hd⟩
    · cases h
  · rintro ⟨rfl, rfl, h⟩
    simp [h]

theorem inputDims_eq_none (s : State) :
    s.inputDims = none ↔
      ¬(1 ≤ (s.dim 0).rows.toNat ∧ (s.dim 0).rows.toNat ≤ 64 ∧ 1 ≤ (s.dim 0).cols.toNat ∧
        (s.dim 0).cols.toNat ≤ 64) := by
  unfold State.inputDims
  dsimp only
  split <;> simp_all

/-- A matrix command: dimensions out of range give EDIM, else its body on the input matrix. -/
theorem withInput_cases (s : State) (op : BitVec 8) (body : Nat → Nat → List Nat → Result) :
    (s.inputDims = none ∧ s.withInput op body = .next (s.completeError op .edim)) ∨
      ∃ k n, s.inputDims = some (k, n) ∧ s.withInput op body = body k n (s.bankMatrix 0 k n) := by
  unfold State.withInput
  cases h : s.inputDims with
  | none => exact Or.inl ⟨rfl, rfl⟩
  | some p => exact Or.inr ⟨p.1, p.2, rfl, rfl⟩

/-- The input matrix has as many rows as asked for, at most 64. -/
theorem bankMatrix_length (s : State) (b : Fin 4) (r c : Nat) (hr : r ≤ 64) : (s.bankMatrix b r c).length = r := by
  simp [State.bankMatrix, hr]

/-- Every row word of a bank's r×c matrix is below 2^c. -/
theorem bankMatrix_lt (s : State) (b : Fin 4) (r c : Nat) : ∀ a ∈ s.bankMatrix b r c, a < 2 ^ c := by
  intro a ha
  simp only [State.bankMatrix, List.mem_map] at ha
  obtain ⟨v, _, rfl⟩ := ha
  exact Nat.mod_lt _ (Nat.two_pow_pos c)

/-! ### The port -/

/-! The word at each index of the map (20_memory.md R101). -/

theorem portWord_id (i : BitVec 12) (h : i.toNat = 0x000) : portWord i = .id := by simp [portWord, h]

theorem portWord_cmd (i : BitVec 12) (h : i.toNat = 0x001) : portWord i = .cmd := by simp [portWord, h]

theorem portWord_status (i : BitVec 12) (h : i.toNat = 0x002) : portWord i = .status := by simp [portWord, h]

theorem portWord_ctrl (i : BitVec 12) (h : i.toNat = 0x003) : portWord i = .ctrl := by simp [portWord, h]

theorem portWord_cmdCount (i : BitVec 12) (h : i.toNat = 0x004) : portWord i = .cmdCount := by simp [portWord, h]

theorem portWord_fieldK (i : BitVec 12) (h : i.toNat = 0x005) : portWord i = .fieldK := by simp [portWord, h]

theorem portWord_fieldMod (i : BitVec 12) (h : i.toNat = 0x006) : portWord i = .fieldMod := by simp [portWord, h]

theorem portWord_fieldPrim (i : BitVec 12) (h : i.toNat = 0x007) : portWord i = .fieldPrim := by simp [portWord, h]

theorem portWord_fieldOrder (i : BitVec 12) (h : i.toNat = 0x008) : portWord i = .fieldOrder := by simp [portWord, h]

theorem portWord_pivCnt (i : BitVec 12) (h : i.toNat = 0x009) : portWord i = .pivCnt := by simp [portWord, h]

theorem portWord_conjCnt (i : BitVec 12) (h : i.toNat = 0x00A) : portWord i = .conjCnt := by simp [portWord, h]

/-- From index 0x00B on the map goes by ranges. -/
theorem portWord_ranges (i : BitVec 12) (h : 0x00B ≤ i.toNat) : portWord i =
    if 0x00C ≤ i.toNat ∧ i.toNat ≤ 0x00F then .bdim (Fin.ofNat 4 (i.toNat - 0x00C))
    else if 0x010 ≤ i.toNat ∧ i.toNat ≤ 0x017 then .g (Fin.ofNat 8 (i.toNat - 0x010))
    else if 0x040 ≤ i.toNat ∧ i.toNat ≤ 0x07F then .pivot (Fin.ofNat 64 (i.toNat - 0x040))
    else if 0x080 ≤ i.toNat ∧ i.toNat ≤ 0x08F then .conj (Fin.ofNat 16 (i.toNat - 0x080))
    else if 0x100 ≤ i.toNat ∧ i.toNat ≤ 0x1FF then
      .bank (Fin.ofNat 4 ((i.toNat - 0x100) / 64)) (Fin.ofNat 64 ((i.toNat - 0x100) % 64))
    else .reserved := by
  unfold portWord
  iterate 11 rw [if_neg (by omega)]

theorem portWord_bdim (i : BitVec 12) (b : Fin 4) (h : i.toNat = 0x00C + b.val) : portWord i = .bdim b := by
  have hb := b.isLt
  rw [portWord_ranges i (by omega), if_pos (by omega)]
  exact congrArg PortWord.bdim (Fin.ext (by simp; omega))

theorem portWord_g (i : BitVec 12) (r : Reg) (h : i.toNat = 0x010 + r.val) : portWord i = .g r := by
  have hr := r.isLt
  rw [portWord_ranges i (by omega), if_neg (by omega), if_pos (by omega)]
  exact congrArg PortWord.g (Fin.ext (by simp; omega))

theorem portWord_pivot (i : BitVec 12) (p : Fin 64) (h : i.toNat = 0x040 + p.val) : portWord i = .pivot p := by
  have hp := p.isLt
  rw [portWord_ranges i (by omega), if_neg (by omega), if_neg (by omega), if_pos (by omega)]
  exact congrArg PortWord.pivot (Fin.ext (by rw [h, Nat.add_sub_cancel_left]; exact Nat.mod_eq_of_lt hp))

theorem portWord_conj (i : BitVec 12) (c : Fin 16) (h : i.toNat = 0x080 + c.val) : portWord i = .conj c := by
  have hc := c.isLt
  rw [portWord_ranges i (by omega), if_neg (by omega), if_neg (by omega), if_neg (by omega), if_pos (by omega)]
  exact congrArg PortWord.conj (Fin.ext (by rw [h, Nat.add_sub_cancel_left]; exact Nat.mod_eq_of_lt hc))

theorem portWord_bank (i : BitVec 12) (b : Fin 4) (r : Fin 64) (h : i.toNat = 0x100 + 64 * b.val + r.val) :
    portWord i = .bank b r := by
  have hb := b.isLt
  have hr := r.isLt
  rw [portWord_ranges i (by omega), if_neg (by omega), if_neg (by omega), if_neg (by omega), if_neg (by omega),
    if_pos (by omega)]
  have h1 : (i.toNat - 0x100) / 64 = b.val := by omega
  have h2 : (i.toNat - 0x100) % 64 = r.val := by omega
  rw [h1, h2]
  exact congr (congrArg PortWord.bank (Fin.ext (Nat.mod_eq_of_lt hb))) (Fin.ext (Nat.mod_eq_of_lt hr))

theorem portWord_reserved (i : BitVec 12) (h : reservedIndex i.toNat) : portWord i = .reserved := by
  unfold reservedIndex at h
  rw [portWord_ranges i (by omega), if_neg (by omega), if_neg (by omega), if_neg (by omega), if_neg (by omega),
    if_neg (by omega)]

/-- What a port write can do: nothing, a refusal that sets COLL, a CTRL write, or one accepted write while idle. -/
theorem portWrite_cases (s : State) (i : BitVec 12) (v : Word) :
    s.portWrite i v = s ∨ s.portWrite i v = s.writeCtrl v ∨ (s.busy.isSome = true ∧ s.portWrite i v = s.collide) ∨
      (s.busy = none ∧
        (s.portWrite i v = s.accept v ∨ s.portWrite i v = s.setDim 0 (Dim.ofWord v) ∨
          (∃ r, s.portWrite i v = s.setReg r v) ∨ ∃ r, s.portWrite i v = s.setBankRow 0 r v)) := by
  unfold State.portWrite
  cases hb : s.busy with
  | some w =>
    cases portWord i with
    | bdim b => by_cases h : b = 0 <;> simp [State.writeWord, State.whenIdle, hb, h]
    | bank b r => by_cases h : b = 0 <;> simp [State.writeWord, State.whenIdle, hb, h]
    | _ => simp [State.writeWord, State.whenIdle, hb]
  | none =>
    cases portWord i with
    | bdim b => by_cases h : b = 0 <;> simp [State.writeWord, State.whenIdle, hb, h]
    | bank b r =>
      by_cases h : b = 0
      · refine Or.inr (Or.inr (Or.inr ⟨rfl, Or.inr (Or.inr (Or.inr ⟨r, ?_⟩))⟩))
        simp [State.writeWord, State.whenIdle, hb, h]
      · simp [State.writeWord, h]
    | g r =>
      refine Or.inr (Or.inr (Or.inr ⟨rfl, Or.inr (Or.inr (Or.inl ⟨r, ?_⟩))⟩))
      simp [State.writeWord, State.whenIdle, hb]
    | _ => simp [State.writeWord, State.whenIdle, hb]

/-- A port read leaves every field but the draw counter. -/
theorem afterRead_cases (s : State) (i : BitVec 12) :
    s.afterRead i = s ∨ s.afterRead i = { s with draws := s.draws + 1 } := by
  unfold State.afterRead
  split
  · exact Or.inr rfl
  · exact Or.inl rfl

/-! ### The step -/

/-- What one step is: an idle core lets the host act; a busy one completes when ready, else lets the host act. -/
theorem step_cases (s : State) :
    (s.busy = none ∧ step s = s.hostStep) ∨
      ∃ w, s.busy = some w ∧
        ((Ready s ∧ step s = s.coreStep w) ∨
          (¬Ready s ∧ step s = ({ s with delay := s.delay - 1 } : State).hostStep)) := by
  unfold step Ready
  cases hb : s.busy with
  | none => exact Or.inl ⟨rfl, rfl⟩
  | some w =>
    refine Or.inr ⟨w, rfl, ?_⟩
    by_cases h : s.delay = 0 ∨ s.pending = []
    · exact Or.inl ⟨h, by simp [h]⟩
    · exact Or.inr ⟨h, by simp [h]⟩

/-- When the next step is the host's, it is the next action on the state with one action less to fall before the
completion. -/
theorem step_of_hostActs (s : State) (h : HostActs s) : step s = (s.hostTurn s.pending).hostStep := by
  rcases step_cases s with ⟨hb, hs⟩ | ⟨w, hb, ⟨hr, _⟩ | ⟨_, hs⟩⟩
  · have idle : s.hostTurn s.pending = s := by
      cases s
      simp_all [State.hostTurn]
    rw [hs, idle]
  · rcases h with h | h
    · simp [hb] at h
    · exact absurd hr h
  · rw [hs]
    simp [State.hostTurn, hb]

/-- What the core's step is: the decoded command, or EILL. -/
theorem coreStep_cases (s : State) (w : Word) :
    (∃ i, decode w = .ok i ∧ s.coreStep w = exec i s) ∨
      ((∃ e, decode w = .error e) ∧ s.coreStep w = .next (s.completeIllegal w)) := by
  unfold State.coreStep
  cases h : decode w with
  | ok i => exact Or.inl ⟨i, rfl, rfl⟩
  | error e => exact Or.inr ⟨⟨e, rfl⟩, rfl⟩

end Sys2Proof.Machine
end

