-- ==== Sys2Proof/Laws/PerInstr.lean ====
section
/-! SUPPORT. Statements about every command, one lemma per constructor of Instr.
EncodedOpcode: the fields of a command hold its opcode in OP and zeros in RSV and above bit 31 (30_encoding.md R151 to
R153), so that the encoded word reads them back. -/

namespace Sys2Proof.Laws

/-- OP, RSV and bits 63:32 of the encoding of `i` (30_encoding.md R151, R152). -/
def EncodedOpcode.Statement (i : Sys2Proof.Instr) : Prop :=
  Sys2Proof.bits (Sys2Proof.encode i) 7 0 = i.opcode ∧ Sys2Proof.bits (Sys2Proof.encode i) 31 24 = 0 ∧
    Sys2Proof.bits (Sys2Proof.encode i) 63 32 = 0

/-- It follows from the fields being laid out as R151 says. -/
theorem encodedOpcode_of_fields (i : Sys2Proof.Instr) (hop : i.fields.op = i.opcode) (hrsv : i.fields.rsv = 0)
    (hhigh : i.fields.high = 0) : EncodedOpcode.Statement i := by
  have h := Sys2Proof.Fields.ofWord_toWord i.fields (by rw [hop]; exact i.opcode_lt) (by rw [hrsv]; decide)
    (by rw [hhigh]; decide)
  refine ⟨?_, ?_, ?_⟩
  · exact (congrArg Sys2Proof.Fields.op h).trans hop
  · exact (congrArg Sys2Proof.Fields.rsv h).trans hrsv
  · exact (congrArg Sys2Proof.Fields.high h).trans hhigh

theorem EncodedOpcode.cflush : EncodedOpcode.Statement (.cflush) :=
  encodedOpcode_of_fields _ rfl rfl rfl

theorem EncodedOpcode.padd (r1 r2 r3 : Sys2Proof.Reg) : EncodedOpcode.Statement (.padd r1 r2 r3) :=
  encodedOpcode_of_fields _ rfl rfl rfl

theorem EncodedOpcode.pmul (r1 r2 r3 : Sys2Proof.Reg) : EncodedOpcode.Statement (.pmul r1 r2 r3) :=
  encodedOpcode_of_fields _ rfl rfl rfl

theorem EncodedOpcode.pdivmod (r1 r2 r3 r4 : Sys2Proof.Reg) : EncodedOpcode.Statement (.pdivmod r1 r2 r3 r4) :=
  encodedOpcode_of_fields _ rfl rfl rfl

theorem EncodedOpcode.pdeg (r1 r2 : Sys2Proof.Reg) : EncodedOpcode.Statement (.pdeg r1 r2) :=
  encodedOpcode_of_fields _ rfl rfl rfl

theorem EncodedOpcode.pgcd (r1 r2 r3 r4 r5 : Sys2Proof.Reg) : EncodedOpcode.Statement (.pgcd r1 r2 r3 r4 r5) :=
  encodedOpcode_of_fields _ rfl rfl rfl

theorem EncodedOpcode.ppow (r1 r2 r3 : Sys2Proof.Reg) : EncodedOpcode.Statement (.ppow r1 r2 r3) :=
  encodedOpcode_of_fields _ rfl rfl rfl

theorem EncodedOpcode.fcfg (r1 r2 : Sys2Proof.Reg) : EncodedOpcode.Statement (.fcfg r1 r2) :=
  encodedOpcode_of_fields _ rfl rfl rfl

theorem EncodedOpcode.fcfgD (r1 : Sys2Proof.Reg) : EncodedOpcode.Statement (.fcfgD r1) :=
  encodedOpcode_of_fields _ rfl rfl rfl

theorem EncodedOpcode.fadd (r1 r2 r3 : Sys2Proof.Reg) : EncodedOpcode.Statement (.fadd r1 r2 r3) :=
  encodedOpcode_of_fields _ rfl rfl rfl

theorem EncodedOpcode.fmul (r1 r2 r3 : Sys2Proof.Reg) : EncodedOpcode.Statement (.fmul r1 r2 r3) :=
  encodedOpcode_of_fields _ rfl rfl rfl

theorem EncodedOpcode.finv (r1 r2 : Sys2Proof.Reg) : EncodedOpcode.Statement (.finv r1 r2) :=
  encodedOpcode_of_fields _ rfl rfl rfl

theorem EncodedOpcode.fdiv (r1 r2 r3 : Sys2Proof.Reg) : EncodedOpcode.Statement (.fdiv r1 r2 r3) :=
  encodedOpcode_of_fields _ rfl rfl rfl

theorem EncodedOpcode.fpow (r1 r2 r3 : Sys2Proof.Reg) : EncodedOpcode.Statement (.fpow r1 r2 r3) :=
  encodedOpcode_of_fields _ rfl rfl rfl

theorem EncodedOpcode.flog (r1 r2 r3 : Sys2Proof.Reg) : EncodedOpcode.Statement (.flog r1 r2 r3) :=
  encodedOpcode_of_fields _ rfl rfl rfl

theorem EncodedOpcode.flogP (r1 r2 : Sys2Proof.Reg) : EncodedOpcode.Statement (.flogP r1 r2) :=
  encodedOpcode_of_fields _ rfl rfl rfl

theorem EncodedOpcode.fconj (r1 : Sys2Proof.Reg) : EncodedOpcode.Statement (.fconj r1) :=
  encodedOpcode_of_fields _ rfl rfl rfl

theorem EncodedOpcode.fminp (r1 r2 : Sys2Proof.Reg) : EncodedOpcode.Statement (.fminp r1 r2) :=
  encodedOpcode_of_fields _ rfl rfl rfl

theorem EncodedOpcode.feval (r1 r2 r3 : Sys2Proof.Reg) : EncodedOpcode.Statement (.feval r1 r2 r3) :=
  encodedOpcode_of_fields _ rfl rfl rfl

theorem EncodedOpcode.mrref : EncodedOpcode.Statement (.mrref) :=
  encodedOpcode_of_fields _ rfl rfl rfl

theorem EncodedOpcode.mxrref : EncodedOpcode.Statement (.mxrref) :=
  encodedOpcode_of_fields _ rfl rfl rfl

theorem EncodedOpcode.mrinv : EncodedOpcode.Statement (.mrinv) :=
  encodedOpcode_of_fields _ rfl rfl rfl

theorem EncodedOpcode.mnull : EncodedOpcode.Statement (.mnull) :=
  encodedOpcode_of_fields _ rfl rfl rfl

end Sys2Proof.Laws
end

