-- ==== Sys2Proof/Tests/Slice0.lean ====
section
/-! SUPPORT. Tests on fixed values. Expected results are the spec's: the encodings of 30_encoding.md R151 and R155 written
out by hand, and the vectors of 95_test_vectors.md. The theorems named `witness_…` show that the hypotheses of the
statements in Certificates/Slice0/Obligations.lean are met, at boundary values of each clause. -/

set_option Elab.async false

namespace Sys2Proof.Tests

open Sys2Proof Sys2Proof.Machine

/-! ### Well-formedness: each check refuses an ill-formed term (30_encoding.md R154) -/

theorem test_wf_refuses_pdivmod : (Instr.pdivmod 3 3 1 2).wf = false := by decide
theorem test_wf_refuses_pgcd_rd_rd2 : (Instr.pgcd 3 3 4 1 2).wf = false := by decide
theorem test_wf_refuses_pgcd_rd_rd3 : (Instr.pgcd 3 4 3 1 2).wf = false := by decide
theorem test_wf_refuses_pgcd_rd2_rd3 : (Instr.pgcd 3 4 4 1 2).wf = false := by decide
theorem test_wf_accepts_pgcd : (Instr.pgcd 3 4 5 3 4).wf = true := by decide

/-! ### Decoding: a word of each command, written out by 30_encoding.md R151 as RD3 RD2 RS2 RS1 RD OP, F above -/

theorem test_decode_cflush : decodeTableWord 32 0x00000001 = some .cflush := by decide
theorem test_decode_padd : decodeTableWord 32 0b000_000_010_001_011_00010000 = some (.padd 3 1 2) := by decide
theorem test_decode_pmul : decodeTableWord 32 0b000_000_010_001_011_00010001 = some (.pmul 3 1 2) := by decide
theorem test_decode_pdivmod : decodeTableWord 32 0b000_101_010_001_100_00010010 = some (.pdivmod 4 5 1 2) := by decide
theorem test_decode_pdeg : decodeTableWord 32 0b000_000_000_001_010_00010011 = some (.pdeg 2 1) := by decide
theorem test_decode_pgcd : decodeTableWord 32 0b101_100_010_001_011_00010100 = some (.pgcd 3 4 5 1 2) := by decide
theorem test_decode_ppow : decodeTableWord 32 0b000_000_010_001_011_00010101 = some (.ppow 3 1 2) := by decide
theorem test_decode_fcfg : decodeTableWord 32 0b000_000_010_001_000_00100000 = some (.fcfg 1 2) := by decide
theorem test_decode_fcfgD : decodeTableWord 32 0b1_000_000_000_001_000_00100000 = some (.fcfgD 1) := by decide
theorem test_decode_fadd : decodeTableWord 32 0b000_000_010_001_011_00100001 = some (.fadd 3 1 2) := by decide
theorem test_decode_fmul : decodeTableWord 32 0b000_000_010_001_011_00100010 = some (.fmul 3 1 2) := by decide
theorem test_decode_finv : decodeTableWord 32 0b000_000_000_001_010_00100011 = some (.finv 2 1) := by decide
theorem test_decode_fdiv : decodeTableWord 32 0b000_000_010_001_011_00100100 = some (.fdiv 3 1 2) := by decide
theorem test_decode_fpow : decodeTableWord 32 0b000_000_111_101_000_00100101 = some (.fpow 0 5 7) := by decide
theorem test_decode_flog : decodeTableWord 32 0b000_000_101_100_110_00100110 = some (.flog 6 4 5) := by decide
theorem test_decode_flogP : decodeTableWord 32 0b1_000_000_000_001_010_00100110 = some (.flogP 2 1) := by decide
theorem test_decode_fconj : decodeTableWord 32 0b000_000_000_010_000_00100111 = some (.fconj 2) := by decide
theorem test_decode_fminp : decodeTableWord 32 0b000_000_000_010_111_00101000 = some (.fminp 7 2) := by decide
theorem test_decode_feval : decodeTableWord 32 0b000_000_010_111_001_00101001 = some (.feval 1 7 2) := by decide
theorem test_decode_mrref : decodeTableWord 32 0x00000030 = some .mrref := by decide
theorem test_decode_mxrref : decodeTableWord 32 0x00000031 = some .mxrref := by decide
theorem test_decode_mrinv : decodeTableWord 32 0x00000032 = some .mrinv := by decide
theorem test_decode_mnull : decodeTableWord 32 0x00000033 = some .mnull := by decide

/-- Encodings of 95_test_vectors.md. -/
theorem test_encode_vectors :
    encode (.pgcd 0 1 2 3 2) = 0x00229814 ∧ encode (.flogP 4 3) = 0x00801C26 ∧ encode (.feval 1 7 2) = 0x0000B929 := by
  decide

/-- Illegal words of 95_test_vectors.md §2.9, by the reason it gives. -/
theorem test_illegal_words :
    decode 0x0 = .error .reservedOpcode ∧ decode 0x34 = .error .reservedOpcode ∧
      decode 0x808B10 = .error .unusedField ∧ decode 0x1008B10 = .error .reservedBits ∧
      decode 0x100008B10 = .error .highBits ∧ decode 0x68B12 = .error .equalDestinations ∧
      decode 0x388B14 = .error .equalDestinations ∧ decode 0x808820 = .error .unusedField := by decide

/-! ### One command on a small state -/

/-- The reset state with some general registers written. -/
def withRegs (l : List (Reg × Word)) : State := l.foldl (fun s p => s.setReg p.1 p.2) State.reset

/-- The same with the field context that a good FCFG leaves. -/
def inField (k m : Nat) (l : List (Reg × Word)) : State := (withRegs l).setField (configuredField k m)

/-- The reset state with BDIM0 and the first rows of BANK0 written. -/
def withMatrix (k n : Nat) (rows : List Nat) : State :=
  (State.reset.setBank 0 (bankOf 64 64 rows)).setDim 0 (Dim.ofNats k n)

/-- A component of the next state. -/
def seen {α : Type} (r : Result) (f : State → α) : Option α :=
  match r with
  | .next t => some (f t)
  | .fault _ => none
  | .refused _ => none

/-- STATUS after the command. -/
def statusAfter (r : Result) : Option Word := seen r State.statusWord

/-- Rows 0, 1 and 2 of a bank after the command, and its dimension word. -/
def bankAfter (b : Fin 4) (r : Result) : Option (List Word × Word) :=
  seen r fun t => ([t.bankRow b 0, t.bankRow b 1, t.bankRow b 2], (t.dim b).toWord)

theorem test_cflush : statusAfter (exec .cflush State.reset) = some 0x10002 := by decide +kernel

theorem test_padd : seen (exec (.padd 3 1 2) (withRegs [(1, 0x14), (2, 0x1A)])) (·.reg 3) = some 0xE := by
  decide +kernel

theorem test_padd_same_register :
    seen (exec (.padd 1 1 1) (withRegs [(1, 0x1234)])) (fun t => (t.reg 1, t.statusWord)) = some (0x0, 0x100002) := by
  decide +kernel

theorem test_pmul : seen (exec (.pmul 3 1 2) (withRegs [(1, 0x100000000), (2, 0x80000000)])) (·.reg 3)
    = some 0x8000000000000000 := by decide +kernel

theorem test_pmul_overflow :
    seen (exec (.pmul 3 1 2) (withRegs [(1, 0x100000000), (2, 0x100000000)])) (fun t => (t.reg 3, t.statusWord))
      = some (0, 0x110326) := by decide +kernel

theorem test_pdivmod : seen (exec (.pdivmod 1 2 1 2) (withRegs [(1, 0x1C8), (2, 0xB)])) (fun t => (t.reg 1, t.reg 2))
    = some (0x33, 0x5) := by decide +kernel

theorem test_pdivmod_by_zero : statusAfter (exec (.pdivmod 3 4 1 2) (withRegs [(1, 5)])) = some 0x120226 := by
  decide +kernel

theorem test_pdeg : seen (exec (.pdeg 2 1) (withRegs [(1, 0x8000000000000001)])) (·.reg 2) = some 0x3F := by
  decide +kernel

theorem test_pdeg_zero : seen (exec (.pdeg 2 1) State.reset) (·.reg 2) = some 0xFFFFFFFFFFFFFFFF := by decide +kernel

theorem test_pgcd :
    seen (exec (.pgcd 1 2 3 1 2) (withRegs [(1, 0x14), (2, 0x1A)])) (fun t => (t.reg 1, t.reg 2, t.reg 3))
      = some (0x2, 0x5, 0x7) := by decide +kernel

theorem test_pgcd_zeros : seen (exec (.pgcd 3 4 5 1 2) State.reset) (fun t => (t.reg 3, t.reg 4, t.reg 5))
    = some (0, 0, 1) := by decide +kernel

theorem test_ppow : seen (exec (.ppow 3 1 2) (withRegs [(1, 3), (2, 63)])) (·.reg 3) = some 0xFFFFFFFFFFFFFFFF := by
  decide +kernel

theorem test_ppow_overflow : statusAfter (exec (.ppow 3 1 2) (withRegs [(1, 3), (2, 64)])) = some 0x150326 := by
  decide +kernel

theorem test_fcfg_degree_mismatch :
    seen (exec (.fcfg 1 2) (inField 4 0x13 [(1, 3), (2, 0x13)])) (fun t => (t.statusWord, t.field))
      = some (0x200526, FieldCtx.invalid) := by decide +kernel

theorem test_fcfg : seen (exec (.fcfg 1 2) (withRegs [(1, 1), (2, 2)])) (fun t => (t.field.prim, t.field.order))
    = some (0, 2) := by decide +kernel

theorem test_fcfgD : seen (exec (.fcfgD 1) (withRegs [(1, 16)])) (fun t => (t.field.k, t.field.modulus, t.field.prim))
    = some (16, 0x1100B, 2) := by decide +kernel

theorem test_fadd : seen (exec (.fadd 3 1 2) (inField 4 0x13 [(1, 6), (2, 0xB)])) (·.reg 3) = some 0xD := by
  decide +kernel

theorem test_fadd_range_after_field : statusAfter (exec (.fadd 3 1 2) (withRegs [(1, 0x10)])) = some 0x210426 := by
  decide +kernel

theorem test_fmul : seen (exec (.fmul 3 1 2) (inField 4 0x13 [(1, 6), (2, 0xB)])) (·.reg 3) = some 0xF := by
  decide +kernel

theorem test_fmul_range : statusAfter (exec (.fmul 3 1 2) (inField 4 0x13 [(1, 0x11), (2, 0x20)])) = some 0x220636 := by
  decide +kernel

theorem test_finv : seen (exec (.finv 1 1) (inField 4 0x13 [(1, 0xF)])) (·.reg 1) = some 8 := by decide +kernel

theorem test_finv_zero_divisor : statusAfter (exec (.finv 2 1) (inField 2 5 [(1, 3)])) = some 0x230236 := by
  decide +kernel

theorem test_fdiv : seen (exec (.fdiv 3 1 2) (inField 4 0x13 [(1, 6), (2, 0xB)])) (·.reg 3) = some 0xD := by
  decide +kernel

theorem test_fdiv_by_zero : statusAfter (exec (.fdiv 3 1 2) (inField 4 0x13 [])) = some 0x240236 := by decide +kernel

theorem test_fpow_negative : seen (exec (.fpow 3 1 2) (inField 4 0x13 [(1, 2), (2, 0xFFFFFFFFFFFFFFFF)])) (·.reg 3)
    = some 9 := by decide +kernel

theorem test_fpow_most_negative :
    seen (exec (.fpow 3 1 2) (inField 4 0x13 [(1, 3), (2, 0x8000000000000000)])) (·.reg 3) = some 0xD := by
  decide +kernel

theorem test_flog : seen (exec (.flog 3 1 2) (inField 4 0x13 [(1, 9), (2, 3)])) (·.reg 3) = some 11 := by
  decide +kernel

theorem test_flog_base_zero : seen (exec (.flog 3 1 2) (inField 4 0x13 [])) (·.reg 3) = some 1 := by decide +kernel

theorem test_flogP : seen (exec (.flogP 2 1) (inField 3 0xB [(1, 7)])) (·.reg 2) = some 5 := by decide +kernel

theorem test_flogP_not_found :
    seen (exec (.flogP 2 1) (inField 4 0x13 [(2, 77)])) (fun t => (t.reg 2, t.statusWord)) = some (77, 0x26001A) := by
  decide +kernel

theorem test_fconj :
    seen (exec (.fconj 1) (inField 4 0x13 [(1, 2)])) (fun t => (t.conjCnt, [t.conj[0], t.conj[1], t.conj[2], t.conj[3], t.conj[4]]))
      = some (4, [2, 4, 3, 5, 0]) := by decide +kernel

theorem test_fconj_overflow : statusAfter (exec (.fconj 1) (inField 16 0x10009 [(1, 2)])) = some 0x270336 := by
  decide +kernel

theorem test_fminp : seen (exec (.fminp 2 1) (inField 4 0x13 [(1, 0xF)])) (·.reg 2) = some 0x1F := by decide +kernel

theorem test_fminp_not_binary : statusAfter (exec (.fminp 2 1) (inField 2 5 [(1, 3)])) = some 0x280736 := by
  decide +kernel

theorem test_feval : seen (exec (.feval 3 1 2) (inField 4 0x13 [(1, 0xFFFFFFFFFFFFFFFF), (2, 2)])) (·.reg 3)
    = some 0xF := by decide +kernel

theorem test_feval_at_zero : seen (exec (.feval 3 1 2) (inField 4 0x13 [(1, 0x19)])) (·.reg 3) = some 1 := by
  decide +kernel

theorem test_mrref : bankAfter 1 (exec .mrref (withMatrix 3 4 [0x6, 0xD, 0xC])) = some ([0x1, 0xA, 0xC], 0x403) := by
  decide +kernel

theorem test_mrref_dimensions : statusAfter (exec .mrref (withMatrix 65 4 [1])) = some 0x300826 := by decide +kernel

theorem test_mxrref :
    bankAfter 2 (exec .mxrref (withMatrix 3 5 [0xB, 0x16, 0x1D])) = some ([0x4, 0x2, 0x7], 0x303) := by decide +kernel

theorem test_mxrref_pivots :
    seen (exec .mxrref (withMatrix 3 6 [0xB, 0x16, 0x25])) (fun t => (t.pivCnt, [t.piv[0], t.piv[1], t.piv[2], t.piv[3]]))
      = some (3, [0, 1, 3, 0]) := by decide +kernel

theorem test_mrinv : bankAfter 3 (exec .mrinv (withMatrix 3 4 [0x6, 0xD, 0xC])) = some ([0x6, 0x5, 0x4], 0x304) := by
  decide +kernel

theorem test_mrinv_rank : statusAfter (exec .mrinv (withMatrix 3 5 [0xB, 0x16, 0x1D])) = some 0x320926 := by
  decide +kernel

theorem test_mnull : bankAfter 3 (exec .mnull (withMatrix 3 6 [0xB, 0x16, 0x25])) = some ([0x7, 0x1A, 0x29], 0x603) := by
  decide +kernel

theorem test_mnull_square : bankAfter 3 (exec .mnull (withMatrix 2 2 [1, 2])) = some ([0, 0, 0], 0x200) := by
  decide +kernel

/-! ### The step and the port (95_test_vectors.md §2.9, §2.10) -/

theorem test_step_illegal : statusAfter (step (State.reset.withFetchWord 32 0x34)) = some 0x340126 := by decide +kernel

theorem test_step_runs_fetch_word : statusAfter (step (State.reset.withFetchWord 32 0x8B10)) = some 0x100002 := by
  decide +kernel

theorem test_status_while_busy : (State.reset.portWrite 1 0x8B10).portRead 2 = 1 := by decide +kernel

theorem test_write_while_busy_is_refused :
    ((State.reset.portWrite 1 0x8B10).portWrite 0x11 7).statusWord = 0x41 ∧
      ((State.reset.portWrite 1 0x8B10).portWrite 0x11 7).reg 1 = 0 := by decide +kernel

theorem test_bdim0_keeps_fourteen_bits : (State.reset.portWrite 0xC 0xFFFF).portRead 0xC = 0x7F7F := by decide +kernel

theorem test_ctrl_keeps_ie : (State.reset.portWrite 3 0xFF).portRead 3 = 1 := by decide +kernel

theorem test_bank0_row_reads_back : (State.reset.portWrite 0x13F 0xABC).portRead 0x13F = 0xABC := by decide +kernel

theorem test_byte_order : wordBytes 0x1122334455667788 = [0x88, 0x77, 0x66, 0x55, 0x44, 0x33, 0x22, 0x11] := by
  decide +kernel

/-! ### The hypotheses of the statements are met -/

/-- A busy state, not ready: one host action is still to fall before the completion. -/
def waiting (op : HostOp) : State := { State.reset with busy := some 0x8B10, delay := 1, pending := [op] }

/-- GF(16) with 6 in G1, 11 in G2, 15 in G3. -/
def gf16 : State := inField 4 0x13 [(1, 6), (2, 11), (3, 15)]

theorem witness_DecodeEncodeRoundTrip : (Instr.pgcd 7 0 1 7 7).wf = true := by decide

theorem witness_LegalWordReencodes : decode 0x000A8C12 = .ok (.pdivmod 4 5 1 2) := by decide

theorem witness_IllegalWordEndsInEill :
    let s : State := State.reset.withFetchWord 32 0x34
    s.busy = some 0x34 ∧ Ready s ∧ bits 0x1000000 63 24 ≠ 0 ∧ bits 0x8000000000000001 63 24 ≠ 0 ∧
      bits 0x34 7 0 ∉ [0x01, 0x33] := by decide +kernel

theorem witness_IllegalWordEndsInEill_unused_field : ∀ i : Instr, i.wf = true → encode i ≠ 0x101 := by
  intro i _
  have hrange : (encode i).toNat = i.opcode + i.fields.rd.val * 2 ^ 8 + i.fields.rs1.val * 2 ^ 11
      + i.fields.rs2.val * 2 ^ 14 + i.fields.rd2.val * 2 ^ 17 + i.fields.rd3.val * 2 ^ 20
      + i.fields.f.toNat * 2 ^ 23 := by
    have h1 := i.fields.rd.isLt; have h2 := i.fields.rs1.isLt; have h3 := i.fields.rs2.isLt
    have h4 := i.fields.rd2.isLt; have h5 := i.fields.rd3.isLt
    have hf : i.fields.f.toNat < 2 := Bool.toNat_lt _
    have hop : i.fields.op = i.opcode := by cases i <;> rfl
    have hr : i.fields.rsv = 0 := by cases i <;> rfl
    have hh : i.fields.high = 0 := by cases i <;> rfl
    have ho : i.opcode < 2 ^ 8 := by cases i <;> (simp only [Instr.opcode]; decide)
    simp only [encode, Fields.toWord, BitVec.toNat_ofNat, hop, hr, hh]
    omega
  intro h
  rw [h] at hrange
  cases i <;> simp [Instr.opcode, Instr.fields, Fields.ofOp] at hrange <;> omega

theorem witness_StepRunsDecodedCommand :
    let s : State := State.reset.withFetchWord 32 0x8B11
    s.busy = some 0x8B11 ∧ Ready s ∧ decode 0x8B11 = .ok (.pmul 3 1 2) := by decide +kernel

theorem witness_HostActions_accept :
    let s : State := { State.reset with pending := [.write 0x001 0x8B10] }
    s.busy = none ∧ s.pending = HostOp.write 0x001 0x8B10 :: [] := by decide +kernel

/-- A write, a read and a WAIT of a host that acts, on an idle core and on a busy one. -/
theorem witness_HostActions :
    HostActs { State.reset with pending := [.write 0x010 7] } ∧ HostActs (waiting (.read 0x002)) ∧
      (waiting (.read 0x002)).pending = HostOp.read 0x002 :: [] ∧ HostActs (waiting .wait) ∧
      (waiting .wait).pending = HostOp.wait :: [] ∧ (waiting .wait).busy.isSome = true := by decide +kernel

theorem witness_BusyWritesAreRefused :
    (waiting .wait).busy.isSome = true ∧ refusedWhenBusy 0x001 ∧ refusedWhenBusy 0x00C ∧ refusedWhenBusy 0x010 ∧
      refusedWhenBusy 0x017 ∧ refusedWhenBusy 0x100 ∧ refusedWhenBusy 0x13F ∧ ¬refusedWhenBusy 0x140 ∧
      ¬refusedWhenBusy 0x003 := by decide +kernel

theorem witness_ReservedAndReadOnlyWords :
    readOnlyIndex 0x000 ∧ readOnlyIndex 0x002 ∧ readOnlyIndex 0x004 ∧ readOnlyIndex 0x00A ∧ readOnlyIndex 0x00D ∧
      readOnlyIndex 0x00F := by decide

theorem witness_ReservedAndReadOnlyWords_lists_and_banks :
    readOnlyIndex 0x040 ∧ readOnlyIndex 0x08F ∧ readOnlyIndex 0x140 ∧ readOnlyIndex 0x1FF ∧ ¬readOnlyIndex 0x00B ∧
      ¬readOnlyIndex 0x010 := by decide

theorem witness_ReservedAndReadOnlyWords_reserved :
    reservedIndex 0x00B ∧ reservedIndex 0x018 ∧ reservedIndex 0x03F ∧ reservedIndex 0x090 ∧ reservedIndex 0x0FF ∧
      reservedIndex 0x200 ∧ reservedIndex 0xFFF ∧ ¬reservedIndex 0x040 ∧ ¬reservedIndex 0x1FF := by decide

theorem witness_HostWriteReadsBack : State.reset.busy = none ∧ (0x017#12).toNat ≤ 0x017 ∧ (0x13F#12).toNat ≤ 0x13F ∧
    (0x00C#12).toNat = 0x00C := by decide +kernel

theorem witness_PortReadsFollowTheMap :
    State.reset.busy = none ∧ (0x00F#12).toNat = 0x00C + (3 : Fin 4).val ∧ (0x017#12).toNat = 0x010 + (7 : Reg).val ∧
      (0x07F#12).toNat = 0x040 + (63 : Fin 64).val ∧ (0x08F#12).toNat = 0x080 + (15 : Fin 16).val ∧
      (0x1FF#12).toNat = 0x100 + 64 * (3 : Fin 4).val + (63 : Fin 64).val := by decide +kernel

theorem witness_IrqFollowsCompletion :
    State.reset.busy = none ∧ (2#64).getLsbD 1 = true ∧ (2#64).getLsbD 0 = false ∧ (1#64).getLsbD 0 = true ∧
      (1#64).getLsbD 1 = false := by decide +kernel

/-- A ready core that holds a command, and one that holds an illegal word. -/
theorem witness_IrqFollowsCompletion_step :
    (State.reset.withFetchWord 32 0x8B10).busy = some 0x8B10 ∧ Ready (State.reset.withFetchWord 32 0x8B10) ∧
      (State.reset.withFetchWord 32 0x34).busy = some 0x34 ∧ Ready (State.reset.withFetchWord 32 0x34) := by
  decide +kernel

theorem witness_IrqFollowsCompletion_exec : ∃ t, exec .cflush State.reset = .next t := ⟨_, rfl⟩

theorem witness_BusyCommandCompletes : (waiting .wait).busy = some 0x8B10 ∧ PortOnly (waiting .wait).pending := by
  refine ⟨rfl, ?_⟩
  intro op h
  have h' : op = .wait := by simpa [waiting] using h
  exact Or.inr (Or.inr h')

theorem witness_OperandsStableWhileBusy :
    ∃ t, (waiting (.write 0x011 7)).busy = some 0x8B10 ∧ ¬Ready (waiting (.write 0x011 7)) ∧
      (waiting (.write 0x011 7)).pending.head? ≠ some .reset ∧ step (waiting (.write 0x011 7)) = .next t :=
  ⟨_, rfl, by decide, by decide, rfl⟩

theorem witness_ResetInputRestoresTable :
    ({ State.reset with pending := [.reset] } : State).pending = HostOp.reset :: [] ∧ State.reset.busy = none ∧
      (waiting .reset).pending = HostOp.reset :: [] ∧ ¬Ready (waiting .reset) := by decide +kernel

theorem witness_BridgeIsLittleEndian :
    (BitVec.ofNat 15 (8 * (0xFFF#12).toNat)).toNat = 0x7FF8 ∧ (0x7FF8#15).toNat = 8 * (0xFFF#12).toNat ∧
      (0x7FF9#15).toNat % 8 ≠ 0 ∧ (wordBytes 0).length = 8 := by decide +kernel

/-- The host acts on an idle core and on a busy one not yet to complete. -/
theorem witness_BridgeIsLittleEndian_hostActs :
    HostActs State.reset ∧ HostActs (waiting (.busRead 0x7FF8 8)) ∧ (waiting .wait).busy.isSome = true ∧
      (waiting (.busRead 0x7FF8 8)).pending = HostOp.busRead 0x7FF8 8 :: [] := by decide +kernel

theorem witness_PmulMultipliesOrOverflows :
    deg 0x8000000000000000 + deg 1 ≤ 63 ∧ deg 0x100000000 + deg 0x80000000 ≤ 63 ∧
      63 < deg 0x100000000 + deg 0x100000000 := by decide +kernel

theorem witness_PdivmodDividesOrFails : (3 : Reg) ≠ 4 ∧ gf16.poly 2 ≠ 0 ∧ gf16.poly 0 = 0 := by decide +kernel

theorem witness_PdegWritesDegree :
    (withRegs [(1, 0x8000000000000001)]).poly 1 ≠ 0 ∧ State.reset.poly 1 = 0 ∧
      (0x8000000000000001#64).getLsbD 63 = true := by decide +kernel

theorem witness_PdegWritesDegree_top : ∀ j, 63 < j → (0x8000000000000001#64).getLsbD j = false := by
  intro j h
  exact BitVec.getLsbD_of_ge _ _ (by omega)

theorem witness_PgcdWritesBezout : (3 : Reg) ≠ 4 ∧ (3 : Reg) ≠ 5 ∧ (4 : Reg) ≠ 5 := by decide

theorem witness_PpowRaisesOrOverflows : deg 3 * (63 : Nat) ≤ 63 ∧ (3 : Nat) ≠ 0 ∧ 63 < deg 3 * (64 : Nat) ∧
    deg 1 * (2 ^ 64 - 1 : Nat) ≤ 63 := by decide +kernel

theorem witness_ClmulIsConvolution : 2 ^ 64 - 1 < 2 ^ 64 ∧ 2 ^ 64 - 1 ≠ 0 := by decide

theorem witness_EgcdIsBezoutInSixtyFourBits : 0 < 2 ^ 64 ∧ 2 ^ 64 - 1 < 2 ^ 64 ∧ egcd 0 (2 ^ 64 - 1) = (2 ^ 64 - 1, 0, 1) ∧
    egcd (2 ^ 64 - 1) 0 = (2 ^ 64 - 1, 1, 0) := by decide +kernel

theorem witness_PdivmodIsDivision : 0x1C8 < 2 ^ 64 ∧ 0xB < 2 ^ 64 ∧ 0xB ≠ 0 ∧ deg 0xB ≤ deg 0x1C8 ∧
    deg 0x5 < deg 0xB := by decide +kernel

theorem witness_FcfgConfiguresTheField :
    let s := withRegs [(1, 1), (2, 2), (3, 16), (4, 0x1100B)]
    1 ≤ s.poly 1 ∧ s.poly 1 ≤ 16 ∧ deg (s.poly 2) = s.poly 1 ∧ s.poly 3 ≤ 16 ∧ deg (s.poly 4) = s.poly 3 := by
  decide +kernel

theorem witness_BadConfigurationLeavesNoField :
    let s := withRegs [(1, 17), (2, 4), (3, 0xB)]
    s.poly 0 = 0 ∧ 16 < s.poly 1 ∧ deg (s.poly 3) ≠ s.poly 2 := by decide +kernel

theorem witness_FieldCommandsNeedAField : elementOperands (.flogP 2 1) ≠ [] ∧ State.reset.field.fv = false := by
  decide +kernel

theorem witness_OutOfRangeElementIsRejected :
    let s := inField 4 0x13 [(1, 0x10)]
    (1 : Reg) ∈ elementOperands (.fadd 3 2 1) ∧ s.field.fv = true ∧ 2 ^ s.field.degree ≤ s.poly 1 := by decide +kernel

/-- FADD, FMUL, FDIV: a field and two elements, the largest among them. -/
theorem witness_field_elements :
    FieldOk gf16.field ∧ gf16.field.fv = true ∧ gf16.poly 1 < 2 ^ gf16.field.degree ∧
      gf16.poly 3 < 2 ^ gf16.field.degree := by decide +kernel

theorem witness_FinvInvertsOrFails : finv gf16.field.mod (gf16.poly 1) = some 7 ∧ finv gf16.field.mod (gf16.poly 0) = none := by
  decide +kernel

theorem witness_FdivDividesOrFails : finv gf16.field.mod (gf16.poly 2) = some 5 ∧ finv gf16.field.mod (gf16.poly 0) = none := by
  decide +kernel

theorem witness_FpowRaisesOrFails :
    let s := inField 4 0x13 [(1, 2), (2, 0x7FFFFFFFFFFFFFFF), (3, 0x8000000000000000)]
    FieldOk s.field ∧ s.field.fv = true ∧ s.poly 1 < 2 ^ s.field.degree ∧ 0 ≤ (s.reg 2).toInt ∧ (s.reg 3).toInt < 0 ∧
      finv s.field.mod (s.poly 1) = some 9 ∧ finv s.field.mod (s.poly 0) = none := by decide +kernel

theorem witness_FlogFindsLeastExponent :
    let s := inField 3 0xB [(1, 7)]
    s.field.fv = true ∧ s.poly 1 < 2 ^ s.field.degree ∧ 5 < 2 ^ s.field.degree ∧
      fpow s.field.mod s.field.prim.toNat (Int.ofNat 5) = some (s.poly 1) ∧
      (∀ j, j < 5 → fpow s.field.mod s.field.prim.toNat (Int.ofNat j) ≠ some (s.poly 1)) := by decide +kernel

theorem witness_FlogFindsLeastExponent_not_found :
    let s := inField 3 0xB [(1, 7)]
    s.poly 0 < 2 ^ s.field.degree ∧
      (∀ j, j < 2 ^ s.field.degree → fpow s.field.mod s.field.prim.toNat (Int.ofNat j) ≠ some (s.poly 0)) := by
  decide +kernel

theorem witness_FconjListsTheOrbit :
    let s := inField 16 0x10009 [(1, 2), (2, 1)]
    FieldOk s.field ∧ s.field.fv = true ∧ s.poly 1 < 2 ^ s.field.degree ∧ conjSeq s.field.mod (s.poly 1) = none ∧
      conjSeq s.field.mod (s.poly 2) = some [1] := by decide +kernel

theorem witness_FminpBuildsTheProduct :
    let s := inField 2 5 [(1, 3), (2, 1)]
    s.field.fv = true ∧ s.poly 1 < 2 ^ s.field.degree ∧ s.poly 2 < 2 ^ s.field.degree ∧
      conjSeq s.field.mod (s.poly 1) = some [3, 0] ∧ (∃ a ∈ minpolyCoeffs s.field.mod [3, 0], a ≠ 0 ∧ a ≠ 1) ∧
      conjSeq s.field.mod (s.poly 2) = some [1] ∧ (∀ a ∈ minpolyCoeffs s.field.mod [1], a = 0 ∨ a = 1) := by
  decide +kernel

theorem witness_FevalEvaluatesAtElement :
    FieldOk gf16.field ∧ gf16.field.fv = true ∧ gf16.poly 3 < 2 ^ gf16.field.degree := by decide +kernel

theorem witness_FinvIsTheInverse : deg 0x1100B = (16 : Nat) ∧ 0xFFFF < 2 ^ 16 ∧ deg 0b10 = (1 : Nat) ∧
    finv 0x5 3 = none ∧ finv 0x5 2 = some 2 := by decide +kernel

theorem witness_ConjSeqIsTheFrobeniusOrbit : conjSeq 0x23 2 = some [0x2, 0x4, 0x10, 0x18, 0x1E, 0xA] ∧
    conjSeq 0x10009 2 = none := by decide +kernel

theorem witness_MatrixCommandsCheckDimensions :
    Instr.mnull ∈ [Instr.mrref, .mxrref, .mrinv, .mnull] ∧ (State.reset.dim 0).rows.toNat = 0 ∧
      64 < ((withMatrix 65 65 []).dim 0).rows.toNat ∧ 64 < ((withMatrix 64 65 []).dim 0).cols.toNat := by
  decide +kernel

theorem witness_MrrefReducesTheInput : (withMatrix 64 64 [1]).inputDims = some (64, 64) ∧
    (withMatrix 1 1 [1]).inputDims = some (1, 1) := by decide +kernel

/-- MXRREF, MRINV, MNULL: a matrix of full row rank and one below it. -/
theorem witness_matrix_ranks :
    let s := withMatrix 3 6 [0xB, 0x16, 0x25]
    let u := withMatrix 3 5 [0xB, 0x16, 0x1D]
    s.inputDims = some (3, 6) ∧ (xrref 6 (s.bankMatrix 0 3 6)).piv = [0, 1, 3] ∧ u.inputDims = some (3, 5) ∧
      (xrref 5 (u.bankMatrix 0 3 5)).piv = [0, 1] := by decide +kernel

theorem witness_full_row_rank : (∀ a ∈ [0xB, 0x16, 0x25], a < 2 ^ 6) ∧
    (xrref 6 [0xB, 0x16, 0x25]).piv.length = [0xB, 0x16, 0x25].length := by decide +kernel

/-- NullRowsAreOrthogonalAndIndependent: a choice of rows at the top of its range. -/
theorem witness_null_rows : (7 : Nat) < 2 ^ (6 - [0xB, 0x16, 0x25].length) ∧
    xorRows (nullMatrix 6 (xrref 6 [0xB, 0x16, 0x25])) 7 3 ≠ 0 ∧ xorRows (nullMatrix 6 (xrref 6 [0xB, 0x16, 0x25])) 0 3 = 0 := by
  decide +kernel

theorem witness_RrefIsReducedEchelon : rref 5 [0xB, 0x16, 0x1D] = [0x1D, 0x16, 0] ∧ lead 5 0x1D = some 0 ∧
    lead 5 0x16 = some 1 := by decide +kernel

theorem witness_WordMatchesOneTableRow :
    (∃ a ∈ opcodeTable, (0x000A8C12#32) &&& a.mask = a.pattern) ∧
      (∃ a ∈ opcodeTable, (0x00068B12#32) &&& a.mask = a.pattern) ∧
      decode 0x00068B12 = .error .equalDestinations := by decide +kernel

/-- The product over the conjugates 6 and 7 of GF(16), at an element and at a root. -/
theorem witness_MinpolyIsTheMonicProduct :
    deg 0x13 = (4 : Nat) ∧ conjSeq 0x13 6 = some [6, 7] ∧ binaryCoeffs (minpolyCoeffs 0x13 [6, 7]) = true ∧
      packCoeffs (minpolyCoeffs 0x13 [6, 7]) = 7 ∧ productAt 0x13 [6, 7] 15 = fmul 0x13 9 8 ∧
      productAt 0x13 [6, 7] 7 = 0 := by decide +kernel

theorem witness_FevalIsSumOfPowers : deg 0x1100B = (16 : Nat) ∧ 2 ^ 64 - 1 < 2 ^ 64 ∧ 2 ^ 16 - 1 < 2 ^ 16 := by decide +kernel

/-- A configured field, an empty cache and a step that keeps them. -/
theorem witness_StepKeepsCoreInvariant : CoreInv gf16 ∧ ∃ t, step gf16 = .next t := by
  have hc : gf16.caches = Caches.empty := rfl
  refine ⟨⟨by decide +kernel, ?_, ⟨fun h => absurd h (by decide +kernel), fun _ => rfl,
    fun h => absurd h (by decide +kernel)⟩, by unfold CountsOk; decide +kernel⟩, ⟨_, rfl⟩⟩
  rw [hc]
  simp [CachesOk, Caches.empty]

theorem witness_CachesAreTransparent : ∃ t, exec (.fmul 3 1 2) gf16 = .next t := ⟨_, rfl⟩

end Sys2Proof.Tests
end

/-! ### Laws of the host's actions

What a host action can do to the state, said once, so that a claim about every step splits along these cases. -/

namespace Sys2Proof.Machine

/-- What an action of the host or the platform can be: nothing, a port read with its reply logged, a port write, or a
reset (20_memory.md R110, R112; 70_reset_and_hazards.md R450). The list of coming actions is the model's own. -/
theorem hostStep_cases (s t : State) (h : s.hostStep = .next t) :
    t = s ∨ ∃ ops : List HostOp,
      (∃ i r, t = (({ s with pending := ops } : State).afterRead i).reply r) ∨
        (∃ i v, t = ({ s with pending := ops } : State).portWrite i v) ∨
        (s.pending.head? = some .reset ∧ t = ({ s with pending := ops } : State).assertReset) := by
  unfold State.hostStep at h
  cases hp : s.pending with
  | nil =>
    rw [hp] at h
    cases h
    exact .inl rfl
  | cons op rest =>
    rw [hp] at h
    refine .inr ?_
    cases op with
    | read i => cases h; exact ⟨rest, .inl ⟨i, _, rfl⟩⟩
    | write i v => cases h; exact ⟨rest, .inr (.inl ⟨i, v, rfl⟩)⟩
    | wait =>
      dsimp only at h
      split at h
      · cases h
        exact ⟨s.pending, .inl ⟨statusIndex, _, rfl⟩⟩
      · cases h
        exact ⟨rest, .inl ⟨statusIndex, _, rfl⟩⟩
    | busRead a n =>
      dsimp only at h
      split at h
      · cases h
        exact ⟨rest, .inl ⟨busIndex a, _, rfl⟩⟩
      · cases h
    | busWrite a bs =>
      dsimp only at h
      split at h
      · cases h
        exact ⟨rest, .inr (.inl ⟨busIndex a, _, rfl⟩)⟩
      · cases h
    | reset => cases h; exact ⟨rest, .inr (.inr ⟨rfl, rfl⟩)⟩

/-- A write to the word of CTRL is a CTRL write, busy or idle (10_state.md R55). -/
theorem portWrite_ctrl (s : State) (v : Word) : s.portWrite 0x003 v = s.writeCtrl v := by
  rw [State.portWrite, portWord_ctrl 0x003 rfl]
  rfl

/-- The read of a word that is defined while busy is never a draw (70_reset_and_hazards.md R461). -/
theorem portRead_of_definedWhileBusy (s : State) (i : BitVec 12) (h : (portWord i).definedWhileBusy = true) :
    s.portRead i = s.wordValue (portWord i) := by
  simp [State.portRead, State.readIsDraw, h]

/-- CTRL reads IE, busy or idle (10_state.md R55). -/
theorem portRead_ctrl (s : State) : s.portRead 0x003 = s.ctrlWord := by
  have hword : portWord 0x003 = .ctrl := portWord_ctrl _ rfl
  rw [portRead_of_definedWhileBusy s _ (by rw [hword]; rfl), hword]
  rfl

end Sys2Proof.Machine

/-! ### STATUS and CTRL -/

namespace Sys2Proof.Machine

/-- The sum of bit values that STATUS shows, as a number: it fits in the word. -/
theorem statusWord_toNat (s : State) : s.statusWord.toNat =
    s.busy.isSome.toNat + s.status.done.toNat * 2 ^ 1 + s.status.err.toNat * 2 ^ 2 + s.status.nf.toNat * 2 ^ 3
      + s.field.fv.toNat * 2 ^ 4 + s.status.errAcc.toNat * 2 ^ 5 + s.status.coll.toNat * 2 ^ 6
      + s.status.ecode.toNat * 2 ^ 8 + s.status.lastOp.toNat * 2 ^ 16 := by
  have hbusy := s.busy.isSome.toNat_le
  have hdone := s.status.done.toNat_le
  have herr := s.status.err.toNat_le
  have hnf := s.status.nf.toNat_le
  have hfv := s.field.fv.toNat_le
  have hacc := s.status.errAcc.toNat_le
  have hcoll := s.status.coll.toNat_le
  have hecode := s.status.ecode.isLt
  have hlast := s.status.lastOp.isLt
  rw [State.statusWord, BitVec.toNat_ofNat]
  exact Nat.mod_eq_of_lt (by omega)

/-- Bit `i` of a word is `b` when that is the digit of weight `2^i`. -/
theorem getLsbD_eq_of_digit (w : Word) (i : Nat) (b : Bool) (h : w.toNat / 2 ^ i % 2 = b.toNat) :
    w.getLsbD i = b := by
  rw [BitVec.getLsbD, Nat.testBit_eq_decide_div_mod_eq, h]
  cases b <;> rfl

/-- Settles O13: each field of STATUS is a digit, or a range of digits, of the sum that STATUS reads as. -/
theorem statusWordLayout : Obligations.StatusWordLayout := by
  intro s
  have hsum := statusWord_toNat s
  have hbusy := s.busy.isSome.toNat_le
  have hdone := s.status.done.toNat_le
  have herr := s.status.err.toNat_le
  have hnf := s.status.nf.toNat_le
  have hfv := s.field.fv.toNat_le
  have hacc := s.status.errAcc.toNat_le
  have hcoll := s.status.coll.toNat_le
  have hecode := s.status.ecode.isLt
  have hlast := s.status.lastOp.isLt
  refine ⟨getLsbD_eq_of_digit _ _ _ ?busy, getLsbD_eq_of_digit _ _ _ ?done, getLsbD_eq_of_digit _ _ _ ?err,
    getLsbD_eq_of_digit _ _ _ ?nf, getLsbD_eq_of_digit _ _ _ ?fv, getLsbD_eq_of_digit _ _ _ ?errAcc,
    getLsbD_eq_of_digit _ _ _ ?coll, getLsbD_eq_of_digit _ _ _ ?reserved, ?ecode, ?lastOp, ?high⟩
  case reserved => rw [Bool.toNat_false]; omega
  case ecode | lastOp | high => unfold bits; omega
  all_goals omega

/-- Settles O10: a write to CTRL is `writeCtrl`, whose two clearing bits mask the stored fields. -/
theorem ctrlWriteActs : Obligations.CtrlWriteActs := by
  intro s v
  refine ⟨s.writeCtrl v, portWrite_ctrl s v, rfl, ?_, rfl, ?_⟩
  · rw [State.writeCtrl_status, Status.ctrlCleared]
    cases v.getLsbD 1 <;> cases v.getLsbD 2 <;> simp
  · rw [portRead_ctrl, State.ctrlWord, State.writeCtrl_ie]
    cases v.getLsbD 0 <;> rfl

end Sys2Proof.Machine

/-! ### A busy core keeps what its command reads -/

namespace Sys2Proof.Machine

/-- `t` differs from `s` at most in STATUS, in CTRL and in the model's own fields: a command held in both reads the same
and completion counts the same (10_state.md R58). -/
def SameHeld (s t : State) : Prop :=
  t = { s with
    status := t.status, ie := t.ie, delay := t.delay, pending := t.pending, replies := t.replies, draws := t.draws }

/-- The held word and everything a command reads, part by part. -/
theorem SameHeld.parts {s t : State} (h : SameHeld s t) :
    t.busy = s.busy ∧ SameRegsBut [] s t ∧ SameField s t ∧ SameBanksBut [] s t ∧ SamePivots s t ∧ SameConj s t ∧
      t.caches = s.caches ∧ t.cmdCount = s.cmdCount := by
  rw [SameHeld] at h
  rw [h]
  exact ⟨rfl, fun _ _ => rfl, rfl, fun _ _ => ⟨rfl, fun _ => rfl⟩, ⟨rfl, fun _ => rfl⟩, ⟨rfl, fun _ => rfl⟩, rfl, rfl⟩

/-- A port read changes nothing a command reads (20_memory.md R114). -/
theorem sameHeld_afterRead_reply (s : State) (i : BitVec 12) (r : HostReply) :
    SameHeld s ((s.afterRead i).reply r) := by
  rcases afterRead_cases s i with h | h <;> rw [h] <;> rfl

/-- While busy a port write is ignored, is a CTRL write, or is refused and sets COLL: none changes anything a command
reads (70_reset_and_hazards.md R462). -/
theorem sameHeld_portWrite_of_busy (s : State) (i : BitVec 12) (v : Word) (hb : s.busy.isSome = true) :
    SameHeld s (s.portWrite i v) := by
  rcases portWrite_cases s i v with h | h | ⟨_, h⟩ | ⟨hidle, _⟩
  · rw [h]; rfl
  · rw [h]; rfl
  · rw [h]; rfl
  · simp [hidle] at hb

/-- Every action of the host on a busy core but reset keeps what the command reads. -/
theorem sameHeld_hostStep_of_busy (s t : State) (hb : s.busy.isSome = true) (hreset : s.pending.head? ≠ some .reset)
    (h : s.hostStep = .next t) : SameHeld s t := by
  rcases hostStep_cases s t h with rfl | ⟨ops, ⟨i, r, rfl⟩ | ⟨i, v, rfl⟩ | ⟨hr, _⟩⟩
  · rfl
  · exact sameHeld_afterRead_reply { s with pending := ops } i r
  · exact sameHeld_portWrite_of_busy { s with pending := ops } i v hb
  · exact absurd hr hreset

/-- Settles O16: the step of a busy core that is not ready is an action of the host. -/
theorem operandsStableWhileBusy : Obligations.OperandsStableWhileBusy := by
  intro s t w hb hready hreset hstep
  rw [step_of_hostActs s (.inr hready)] at hstep
  have hturn : (s.hostTurn s.pending).busy.isSome = true := by simp [State.hostTurn, hb]
  have held := sameHeld_hostStep_of_busy _ t hturn hreset hstep
  have parts := SameHeld.parts (s := s) held
  rwa [hb] at parts

end Sys2Proof.Machine

/-! ### Bounds of what the commands compute

The facts about the mathematics that keep the field context and the counts in range. -/

namespace Sys2Proof.Machine

/-- A dividend of smaller degree than the divisor is its own remainder (40_ring.md R220). -/
theorem pdivmod_of_deg_lt (a b : Nat) (h : deg a < deg b) : pdivmod a b = (0, a) := by
  rw [pdivmod, pdivmodLoop, if_neg (by omega)]

/-- A polynomial of degree k ≥ 0 has its highest bit at k. -/
theorem ne_zero_and_log2_of_deg (m k : Nat) (h : deg m = k) : m ≠ 0 ∧ Nat.log2 m = k := by
  unfold deg at h
  split at h
  · omega
  · exact ⟨‹_›, by omega⟩

/-- A polynomial of degree k lies in [2^k, 2^(k+1)). -/
theorem bounds_of_deg (m k : Nat) (h : deg m = k) : 2 ^ k ≤ m ∧ m < 2 ^ (k + 1) := by
  obtain ⟨hm, rfl⟩ := ne_zero_and_log2_of_deg m k h
  exact ⟨Nat.log2_self_le hm, Nat.lt_log2_self⟩

/-- The primitive element X mod m is X itself above degree 1 and 0 or 1 at degree 1 (10_state.md R63). -/
theorem prim_le_two (m k : Nat) (h : deg m = k) (hk : 1 ≤ k) : (pdivmod 2 m).2 ≤ 2 := by
  by_cases hone : k = 1
  · subst hone
    obtain ⟨hlo, hhi⟩ := bounds_of_deg m 1 h
    interval_cases m <;> decide
  · have htwo : deg 2 = 1 := by decide
    rw [pdivmod_of_deg_lt 2 m (by omega)]

/-- DEFAULT[k] has degree k (10_state.md R65). -/
theorem deg_defaultModulus (k : Nat) (h1 : 1 ≤ k) (h16 : k ≤ 16) : deg (defaultModulus k) = k := by
  interval_cases k <;> decide

/-- The conjugate sequence stops at 16 elements (41_field.md R285). -/
theorem conjLoop_length_le (m fuel : Nat) (seq cs : List Nat) (hlen : seq.length ≤ 16)
    (h : conjLoop m fuel seq = some cs) : cs.length ≤ 16 := by
  induction fuel generalizing seq with
  | zero => cases h
  | succ fuel ih =>
    rw [conjLoop] at h
    split at h
    · cases h; exact hlen
    · split at h
      · cases h
      · exact ih _ (by simp; omega) h

theorem conjSeq_length_le (m x : Nat) (cs : List Nat) (h : conjSeq m x = some cs) : cs.length ≤ 16 :=
  conjLoop_length_le m 16 [x] cs (by simp) h

/-- The pivot scan finds at most one pivot a column (42_matrix.md R350). -/
theorem pivotsFrom_length_le (red : List Nat) (n j : Nat) (piv : List Nat) :
    (pivotsFrom red n j piv).length ≤ piv.length + n := by
  induction n generalizing j piv with
  | zero => exact le_refl _
  | succ n ih =>
    rw [pivotsFrom]
    split
    · omega
    · split
      · have := ih (j + 1) (piv ++ [j])
        rw [List.length_append, List.length_singleton] at this
        omega
      · have := ih (j + 1) piv
        omega

theorem xrref_piv_length_le (n : Nat) (M : List Nat) : (xrref n M).piv.length ≤ n := by
  have h := pivotsFrom_length_le (xrref n M).red n 0 []
  rwa [List.length_nil, Nat.zero_add] at h

end Sys2Proof.Machine

/-! ### The invariant of the core

Completion overwrites BUSY and what `StatusOk` says of STATUS, so that a command has to keep the rest alone. -/

namespace Sys2Proof.Machine

/-- What a command has to keep of the invariant until it completes: all of it but STATUS. -/
def DataOk (s : State) : Prop := FieldOk s.field ∧ CachesOk s.field s.caches ∧ CountsOk s

theorem CoreInv.dataOk {s : State} (h : CoreInv s) : DataOk s := by
  obtain ⟨hfield, hcaches, _, hcounts⟩ := h
  exact ⟨hfield, hcaches, hcounts⟩

theorem DataOk.completeOk {s : State} (h : DataOk s) (op : BitVec 8) (nf : Bool) : CoreInv (s.completeOk op nf) := by
  obtain ⟨hfield, hcaches, hcounts⟩ := h
  exact ⟨hfield, hcaches, ⟨(nomatch ·), fun _ => rfl, (nomatch ·)⟩, hcounts⟩

theorem DataOk.completeError {s : State} (h : DataOk s) (op : BitVec 8) (e : ErrorCode) :
    CoreInv (s.completeError op e) := by
  obtain ⟨hfield, hcaches, hcounts⟩ := h
  exact ⟨hfield, hcaches, ⟨(nomatch ·), (nomatch ·), fun _ => ⟨rfl, e, rfl⟩⟩, hcounts⟩

theorem DataOk.setReg {s : State} (h : DataOk s) (r : Reg) (v : Word) : DataOk (s.setReg r v) := h

theorem DataOk.setPoly {s : State} (h : DataOk s) (r : Reg) (a : Nat) : DataOk (s.setPoly r a) := h

/-- A result of at most 64 by 64 keeps the dimensions in range, whichever bank it goes to. -/
theorem DataOk.writeMatrix {s : State} (h : DataOk s) (b : Fin 4) (r c : Nat) (A : List Nat) (hr : r ≤ 64)
    (hc : c ≤ 64) : DataOk (s.writeMatrix b r c A) := by
  obtain ⟨hfield, hcaches, hdims, hpiv, hconj⟩ := h
  refine ⟨hfield, hcaches, fun a ha => ?_, hpiv, hconj⟩
  rw [State.writeMatrix_eq, State.dim_setDim]
  split
  · simp only [Dim.ofNats, BitVec.toNat_ofNat]
    omega
  · exact hdims a ha

theorem DataOk.setPivots {s : State} (h : DataOk s) (piv : List Nat) (hlen : piv.length ≤ 64) :
    DataOk (s.setPivots piv) := by
  obtain ⟨hfield, hcaches, hdims, _, hconj⟩ := h
  refine ⟨hfield, hcaches, hdims, ?_, hconj⟩
  simp only [State.setPivots, BitVec.toNat_ofNat]
  omega

theorem DataOk.setConj {s : State} (h : DataOk s) (seq : List Nat) (hlen : seq.length ≤ 16) :
    DataOk (s.setConj seq) := by
  obtain ⟨hfield, hcaches, hdims, hpiv, _⟩ := h
  refine ⟨hfield, hcaches, hdims, hpiv, ?_⟩
  simp only [State.setConj, BitVec.toNat_ofNat]
  omega

/-! The caches a command leaves hold exact values under keys of the right kind, whichever keys the policy keeps. -/

theorem cachesOk_empty (f : FieldCtx) : CachesOk f Caches.empty := by simp [CachesOk, Caches.empty]

theorem mulEntries_ok (f : FieldCtx) (n : Nat) (hfv : f.fv = true) : ∀ e ∈ mulEntries f n,
    f.fv = true ∧ e.a < 2 ^ f.degree ∧ e.b < 2 ^ f.degree ∧ e.value = fmul f.mod e.a e.b := by
  intro e he
  obtain ⟨k, hk, rfl⟩ := List.mem_map.mp he
  have helem := List.of_mem_filter (List.mem_of_mem_take hk)
  rw [Bool.and_eq_true, FieldCtx.isElement_iff, FieldCtx.isElement_iff] at helem
  exact ⟨hfv, helem.1, helem.2, rfl⟩

theorem invEntries_ok (f : FieldCtx) (n : Nat) (hfv : f.fv = true) : ∀ e ∈ invEntries f n,
    f.fv = true ∧ e.a < 2 ^ f.degree ∧ e.value = finv f.mod e.a := by
  intro e he
  obtain ⟨k, hk, rfl⟩ := List.mem_map.mp he
  have helem := List.of_mem_filter (List.mem_of_mem_take hk)
  rw [FieldCtx.isElement_iff] at helem
  exact ⟨hfv, helem, rfl⟩

theorem logEntries_ok (f : FieldCtx) (n : Nat) (hfv : f.fv = true) : ∀ e ∈ logEntries f n,
    f.fv = true ∧ e.x < 2 ^ f.degree ∧ e.base < 2 ^ f.degree ∧ e.value = flog f.mod f.degree e.x e.base := by
  intro e he
  obtain ⟨k, hk, rfl⟩ := List.mem_map.mp he
  have helem := List.of_mem_filter (List.mem_of_mem_take hk)
  rw [Bool.and_eq_true, FieldCtx.isElement_iff, FieldCtx.isElement_iff] at helem
  exact ⟨hfv, helem.1, helem.2, rfl⟩

theorem redEntries_ok (n : Nat) : ∀ e ∈ redEntries n,
    e.a < 2 ^ 64 ∧ e.b < 2 ^ 64 ∧ e.b ≠ 0 ∧ (e.quot, e.rem) = pdivmod e.a e.b := by
  intro e he
  obtain ⟨k, hk, rfl⟩ := List.mem_map.mp he
  have hkey := List.of_mem_filter (List.mem_of_mem_take hk)
  simp only [Bool.and_eq_true, decide_eq_true_eq, bne_iff_ne] at hkey
  obtain ⟨⟨ha, hb⟩, hne⟩ := hkey
  exact ⟨ha, hb, hne, rfl⟩

/-- A kept list of `take` is at most as long as the cache. -/
theorem length_map_take_le {α β : Type} (f : α → β) (l : List α) (n : Nat) : ((l.take n).map f).length ≤ n := by
  rw [List.length_map]
  exact List.length_take_le n l

/-- Use of the caches keeps them coherent; the three caches of field values are used only while a field is valid. -/
theorem DataOk.useCaches {s : State} (h : DataOk s) (u : CacheUse)
    (hfv : u = CacheUse.division ∨ s.field.fv = true) : DataOk (s.useCaches u) := by
  obtain ⟨hfield, ⟨hmul, hinv, hlog, hred, hmulLen, hinvLen, hlogLen, hredLen⟩, hcounts⟩ := h
  refine ⟨hfield, ?_, hcounts⟩
  rcases hfv with rfl | hfv
  · exact ⟨hmul, hinv, hlog, redEntries_ok _, hmulLen, hinvLen, hlogLen, length_map_take_le _ _ _⟩
  · obtain ⟨useMul, useInv, useLog, useRed⟩ := u
    refine ⟨?_, ?_, ?_, ?_, ?_, ?_, ?_, ?_⟩
    · cases useMul
      exacts [hmul, mulEntries_ok _ _ hfv]
    · cases useInv
      exacts [hinv, invEntries_ok _ _ hfv]
    · cases useLog
      exacts [hlog, logEntries_ok _ _ hfv]
    · cases useRed
      exacts [hred, redEntries_ok _]
    · cases useMul
      exacts [hmulLen, length_map_take_le _ _ _]
    · cases useInv
      exacts [hinvLen, length_map_take_le _ _ _]
    · cases useLog
      exacts [hlogLen, length_map_take_le _ _ _]
    · cases useRed
      exacts [hredLen, length_map_take_le _ _ _]

/-! FCFG and FCFG.D write a field context of the right kind and leave no cache entry of the old field. -/

theorem fieldOk_invalid : FieldOk FieldCtx.invalid := ⟨fun _ => rfl, (nomatch ·)⟩

theorem fieldOk_configuredField (k m : Nat) (h1 : 1 ≤ k) (h16 : k ≤ 16) (hdeg : deg m = k) :
    FieldOk (configuredField k m) := by
  have hm : m < 2 ^ 64 := (bounds_of_deg m k hdeg).2.trans_le (Nat.pow_le_pow_right (by decide) (by omega))
  have horder : 2 ^ k < 2 ^ 64 := Nat.pow_lt_pow_right (by decide) (by omega)
  have hprim := prim_le_two m k hdeg h1
  have hdegree : (configuredField k m).degree = k := by
    rw [FieldCtx.degree, configuredField, BitVec.toNat_ofNat]
    omega
  have hmod : (configuredField k m).mod = m := by
    rw [FieldCtx.mod, configuredField, BitVec.toNat_ofNat, Nat.mod_eq_of_lt hm]
  refine ⟨(nomatch ·), fun _ => ?_⟩
  rw [hdegree, hmod]
  refine ⟨h1, h16, hdeg, ?_, ?_⟩
  · rw [configuredField, BitVec.toNat_ofNat, Nat.mod_eq_of_lt horder]
  · rw [configuredField, BitVec.toNat_ofNat, Nat.mod_eq_of_lt (by omega)]

theorem DataOk.configure {s : State} (h : DataOk s) (op : BitVec 8) (good : Bool) (k m : Nat)
    (hgood : good = true → 1 ≤ k ∧ k ≤ 16 ∧ deg m = k) : CoreInv (s.configure op good k m) := by
  obtain ⟨_, _, hcounts⟩ := h
  cases good with
  | true =>
    obtain ⟨h1, h16, hdeg⟩ := hgood rfl
    have hdata : DataOk (s.flushCaches.setField (configuredField k m)) :=
      ⟨fieldOk_configuredField k m h1 h16 hdeg, cachesOk_empty _, hcounts⟩
    exact hdata.completeOk op false
  | false =>
    have hdata : DataOk (s.flushCaches.setField FieldCtx.invalid) := ⟨fieldOk_invalid, cachesOk_empty _, hcounts⟩
    exact hdata.completeError op .econfig

/-! ### Commands keep the invariant -/

/-- The state an outcome goes on to, if it does, satisfies the invariant. -/
def LeavesInv (r : Result) : Prop := ∀ t, r = .next t → CoreInv t

theorem leavesInv_next {t : State} (h : CoreInv t) : LeavesInv (.next t) := by
  intro u hu
  cases hu
  exact h

theorem leavesInv_ite {c : Prop} [Decidable c] {r r' : Result} (h : LeavesInv r) (h' : LeavesInv r') :
    LeavesInv (if c then r else r') := by
  split
  · exact h
  · exact h'

/-- A field command keeps the invariant if its body does, which runs only while a field is valid. -/
theorem leavesInv_withElements {s : State} (h : DataOk s) (op : BitVec 8) (l : List Nat) (body : Result)
    (hbody : s.field.fv = true → LeavesInv body) : LeavesInv (s.withElements op l body) := by
  rcases withElements_cases s op l body with ⟨_, he⟩ | ⟨_, _, he⟩ | ⟨hfv, _, he⟩ <;> rw [he]
  · exact leavesInv_next (h.completeError _ _)
  · exact leavesInv_next (h.completeError _ _)
  · exact hbody hfv

/-- A matrix command keeps the invariant if its body does, which runs only for dimensions of at most 64. -/
theorem leavesInv_withInput {s : State} (h : DataOk s) (op : BitVec 8) (body : Nat → Nat → List Nat → Result)
    (hbody : ∀ k n M, k ≤ 64 → n ≤ 64 → LeavesInv (body k n M)) : LeavesInv (s.withInput op body) := by
  rcases withInput_cases s op body with ⟨_, he⟩ | ⟨k, n, hdims, he⟩ <;> rw [he]
  · exact leavesInv_next (h.completeError _ _)
  · obtain ⟨_, _, _, hk, _, hn⟩ := (inputDims_eq_some s k n).mp hdims
    exact hbody k n _ hk hn

/-- FLOG and FLOG.P after their operand checks. -/
theorem DataOk.logarithm {s : State} (h : DataOk s) (hfv : s.field.fv = true) (rd : Reg) (x base : Nat) :
    CoreInv (s.logarithm rd x base) := by
  have hused := h.useCaches CacheUse.logarithm (.inr hfv)
  unfold State.logarithm
  split
  · exact (hused.setPoly rd _).completeOk _ _
  · exact hused.completeOk _ _

/-- The completion of every command keeps the invariant; commands that write the same kind of result share a case. -/
theorem exec_leavesInv (i : Instr) {s : State} (h : DataOk s) : LeavesInv (exec i s) := by
  cases i with
  | cflush =>
    obtain ⟨hfield, _, hcounts⟩ := h
    have hflushed : DataOk s.flushCaches := ⟨hfield, cachesOk_empty _, hcounts⟩
    exact leavesInv_next (hflushed.completeOk _ _)
  | padd | pdeg => exact leavesInv_next ((h.setReg _ _).completeOk _ _)
  | pmul | ppow =>
    exact leavesInv_ite (leavesInv_next (h.completeError _ _)) (leavesInv_next ((h.setPoly _ _).completeOk _ _))
  | pdivmod =>
    have hused := h.useCaches CacheUse.division (.inl rfl)
    exact leavesInv_ite (leavesInv_next (h.completeError _ _))
      (leavesInv_next (((hused.setPoly _ _).setPoly _ _).completeOk _ _))
  | pgcd =>
    have hused := h.useCaches CacheUse.division (.inl rfl)
    exact leavesInv_next ((((hused.setPoly _ _).setPoly _ _).setPoly _ _).completeOk _ _)
  | fcfg => exact leavesInv_next (h.configure _ _ _ _ fun hgood => of_decide_eq_true hgood)
  | fcfgD =>
    refine leavesInv_next (h.configure _ _ _ _ fun hgood => ?_)
    obtain ⟨h1, h16⟩ := of_decide_eq_true hgood
    exact ⟨h1, h16, deg_defaultModulus _ h1 h16⟩
  | fadd => exact leavesInv_withElements h _ _ _ fun _ => leavesInv_next ((h.setReg _ _).completeOk _ _)
  | fmul | feval =>
    refine leavesInv_withElements h _ _ _ fun hfv => ?_
    have hused := h.useCaches CacheUse.multiply (.inr hfv)
    exact leavesInv_next ((hused.setPoly _ _).completeOk _ _)
  | finv | fdiv | fpow =>
    refine leavesInv_withElements h _ _ _ fun hfv => ?_
    have hused := h.useCaches CacheUse.inverse (.inr hfv)
    split
    · exact leavesInv_next (hused.completeError _ _)
    · exact leavesInv_next ((hused.setPoly _ _).completeOk _ _)
  | flog | flogP => exact leavesInv_withElements h _ _ _ fun hfv => leavesInv_next (h.logarithm hfv _ _ _)
  | fconj =>
    refine leavesInv_withElements h _ _ _ fun hfv => ?_
    have hused := h.useCaches CacheUse.multiply (.inr hfv)
    split
    · exact leavesInv_next (hused.completeError _ _)
    · next cs hcs => exact leavesInv_next ((hused.setConj cs (conjSeq_length_le _ _ cs hcs)).completeOk _ _)
  | fminp =>
    refine leavesInv_withElements h _ _ _ fun hfv => ?_
    have hused := h.useCaches CacheUse.multiply (.inr hfv)
    split
    · exact leavesInv_next (hused.completeError _ _)
    · exact leavesInv_ite (leavesInv_next ((hused.setPoly _ _).completeOk _ _))
        (leavesInv_next (hused.completeError _ _))
  | mrref =>
    exact leavesInv_withInput h _ _ fun k n M hk hn => leavesInv_next ((h.writeMatrix 1 k n _ hk hn).completeOk _ _)
  | mxrref =>
    unfold exec execMxrref
    refine leavesInv_withInput h _ _ fun k n M hk hn => ?_
    have hbanks := (h.writeMatrix 1 k n (xrref n M).red hk hn).writeMatrix 2 k k (xrref n M).P hk hk
    exact leavesInv_next ((hbanks.setPivots _ ((xrref_piv_length_le n M).trans hn)).completeOk _ _)
  | mrinv =>
    unfold exec execMrinv
    refine leavesInv_withInput h _ _ fun k n M hk hn => ?_
    exact leavesInv_ite (leavesInv_next (h.completeError _ _))
      (leavesInv_next ((h.writeMatrix 3 n k _ hn hk).completeOk _ _))
  | mnull =>
    unfold exec execMnull
    refine leavesInv_withInput h _ _ fun k n M hk hn => ?_
    exact leavesInv_ite (leavesInv_next (h.completeError _ _))
      (leavesInv_next ((h.writeMatrix 3 (n - k) n _ (by omega) hn).completeOk _ _))

/-! ### Host actions keep the invariant -/

/-- Reset gives the invariant, whichever draw fills the unspecified rows of the table (10_state.md R90). -/
theorem coreInv_atReset (n : Nat) : CoreInv (State.atReset n) := by
  refine ⟨fieldOk_invalid, cachesOk_empty _, ⟨(nomatch ·), fun _ => rfl, (nomatch ·)⟩, fun b _ => ?dims, ?piv, ?conj⟩
  case dims => simp [State.atReset, State.dim]
  case piv | conj => exact Nat.zero_le _

theorem coreInv_afterRead_reply {s : State} (h : CoreInv s) (i : BitVec 12) (r : HostReply) :
    CoreInv ((s.afterRead i).reply r) := by
  rcases afterRead_cases s i with he | he <;> rw [he] <;> exact h

theorem coreInv_writeCtrl {s : State} (h : CoreInv s) (v : Word) : CoreInv (s.writeCtrl v) := by
  obtain ⟨hfield, hcaches, ⟨hdone, hcode⟩, hcounts⟩ := h
  refine ⟨hfield, hcaches, ⟨fun hb => ?_, hcode⟩, hcounts⟩
  simp [Status.ctrlCleared, hdone hb]

theorem coreInv_accept {s : State} (h : CoreInv s) (w : Word) : CoreInv (s.accept w) := by
  obtain ⟨hfield, hcaches, ⟨_, hcode⟩, hcounts⟩ := h
  exact ⟨hfield, hcaches, ⟨fun _ => rfl, hcode⟩, hcounts⟩

/-- BDIM0 is the host's: the invariant bounds the other three. -/
theorem coreInv_setDim_zero {s : State} (h : CoreInv s) (d : Dim) : CoreInv (s.setDim 0 d) := by
  obtain ⟨hfield, hcaches, hstatus, hdims, hpiv, hconj⟩ := h
  refine ⟨hfield, hcaches, hstatus, fun b hb => ?_, hpiv, hconj⟩
  rw [State.dim_setDim, if_neg hb]
  exact hdims b hb

theorem coreInv_portWrite {s : State} (h : CoreInv s) (i : BitVec 12) (v : Word) : CoreInv (s.portWrite i v) := by
  rcases portWrite_cases s i v with he | he | ⟨_, he⟩ | ⟨_, he | he | ⟨r, he⟩ | ⟨r, he⟩⟩ <;> rw [he]
  · exact h
  · exact coreInv_writeCtrl h v
  · exact h
  · exact coreInv_accept h v
  · exact coreInv_setDim_zero h _
  · exact h
  · exact h

theorem hostStep_leavesInv {s : State} (h : CoreInv s) : LeavesInv s.hostStep := by
  intro t ht
  rcases hostStep_cases s t ht with rfl | ⟨ops, ⟨i, r, rfl⟩ | ⟨i, v, rfl⟩ | ⟨_, rfl⟩⟩
  · exact h
  · exact coreInv_afterRead_reply (s := { s with pending := ops }) h i r
  · exact coreInv_portWrite (s := { s with pending := ops }) h i v
  · exact coreInv_atReset s.draws

/-- The core's own step: a command, or the EILL completion of an illegal word. -/
theorem coreStep_leavesInv {s : State} (h : CoreInv s) (w : Word) : LeavesInv (s.coreStep w) := by
  rcases coreStep_cases s w with ⟨i, _, he⟩ | ⟨_, he⟩ <;> rw [he]
  · exact exec_leavesInv i h.dataOk
  · exact leavesInv_next (h.dataOk.completeError _ _)

/-- Settles O58: the step is the core's own or the host's, and either keeps the invariant. -/
theorem stepKeepsCoreInvariant : Obligations.StepKeepsCoreInvariant := by
  intro s t h hstep
  rcases step_cases s with ⟨_, he⟩ | ⟨w, _, ⟨_, he⟩ | ⟨_, he⟩⟩ <;> rw [he] at hstep
  · exact hostStep_leavesInv h t hstep
  · exact coreStep_leavesInv h w t hstep
  · exact hostStep_leavesInv (s := { s with delay := s.delay - 1 }) h t hstep

/-- Settles O59: the state right after reset is reset at draw 0. -/
theorem resetSatisfiesCoreInvariant : Obligations.ResetSatisfiesCoreInvariant := coreInv_atReset 0

/-- Settles O17, row by row of the reset table (10_state.md R90). -/
theorem resetStateTable : Obligations.ResetStateTable := by
  refine ⟨fun r => ?regs, rfl, rfl, rfl, rfl, rfl, fun b => ?dims, rfl, rfl, rfl, rfl, rfl⟩
  case regs => simp [State.reg, State.reset, State.atReset]
  case dims => simp [State.dim, State.reset, State.atReset]

end Sys2Proof.Machine

/-! ### The caches are transparent

Two runs of a command from states that differ in the caches alone, followed side by side. -/

namespace Sys2Proof.Machine

/-- The state with other cache contents. -/
def State.withCaches (s : State) (c : Caches) : State := { s with caches := c }

/-- Where `r` goes on to a state, `r'` goes on to the same state but for the caches. -/
def SameButCaches (r r' : Result) : Prop := ∀ t, r = .next t → ∃ c, r' = .next (t.withCaches c)

theorem sameButCaches_next (t : State) (c : Caches) : SameButCaches (.next t) (.next (t.withCaches c)) := by
  intro u hu
  cases hu
  exact ⟨c, rfl⟩

theorem sameButCaches_refl (r : Result) : SameButCaches r r := fun t ht => ⟨t.caches, ht⟩

theorem sameButCaches_ite {p : Prop} [Decidable p] {a b a' b' : Result} (ha : SameButCaches a a')
    (hb : SameButCaches b b') : SameButCaches (if p then a else b) (if p then a' else b') := by
  split
  · exact ha
  · exact hb

/-- The operand check reads the field context, not the caches. -/
theorem sameButCaches_withElements (s : State) (c : Caches) (op : BitVec 8) (l : List Nat) {body body' : Result}
    (hbody : SameButCaches body body') :
    SameButCaches (s.withElements op l body) ((s.withCaches c).withElements op l body') := by
  have herr : (s.withCaches c).field.operandError l = s.field.operandError l := rfl
  unfold State.withElements
  rw [herr]
  cases s.field.operandError l with
  | some e => exact sameButCaches_next (s.completeError op e) c
  | none => exact hbody

/-- The dimension check and the input matrix read BDIM0 and BANK0, not the caches. -/
theorem sameButCaches_withInput (s : State) (c : Caches) (op : BitVec 8) {body body' : Nat → Nat → List Nat → Result}
    (hbody : ∀ k n M, SameButCaches (body k n M) (body' k n M)) :
    SameButCaches (s.withInput op body) ((s.withCaches c).withInput op body') := by
  have hdims : (s.withCaches c).inputDims = s.inputDims := rfl
  unfold State.withInput
  rw [hdims]
  cases s.inputDims with
  | none => exact sameButCaches_next (s.completeError op .edim) c
  | some p => exact hbody p.1 p.2 _

/-- A configuration invalidates the caches first, so that what they held is lost (41_field.md R255). -/
theorem sameButCaches_configure (s : State) (c : Caches) (op : BitVec 8) (good : Bool) (k m : Nat) :
    SameButCaches (.next (s.configure op good k m)) (.next ((s.withCaches c).configure op good k m)) :=
  sameButCaches_refl _

/-- FLOG and FLOG.P after their operand checks. -/
theorem sameButCaches_logarithm (s : State) (c : Caches) (rd : Reg) (x base : Nat) :
    SameButCaches (.next (s.logarithm rd x base)) (.next ((s.withCaches c).logarithm rd x base)) := by
  have hflog : flog (s.withCaches c).field.mod (s.withCaches c).field.degree x base =
      flog s.field.mod s.field.degree x base := rfl
  unfold State.logarithm
  rw [hflog]
  cases flog s.field.mod s.field.degree x base <;> exact sameButCaches_next _ _

/-- The values a command computes from are read past the caches. -/
theorem withCaches_mod (s : State) (c : Caches) : (s.withCaches c).field.mod = s.field.mod := rfl

theorem withCaches_poly (s : State) (c : Caches) (r : Reg) : (s.withCaches c).poly r = s.poly r := rfl

theorem withCaches_signed (s : State) (c : Caches) (r : Reg) : (s.withCaches c).signed r = s.signed r := rfl

/-- No command looks a value up in the caches: each reads and writes the rest of the state the same. What it leaves in
the caches may depend on what they held, where it does not use all four. -/
theorem exec_sameButCaches (i : Instr) (s : State) (c : Caches) :
    SameButCaches (exec i s) (exec i (s.withCaches c)) := by
  cases i with
  | cflush => exact sameButCaches_refl _
  | padd | pdeg | pgcd => exact sameButCaches_next _ _
  | pmul | pdivmod | ppow => exact sameButCaches_ite (sameButCaches_next _ _) (sameButCaches_next _ _)
  | fcfg | fcfgD => exact sameButCaches_configure s c _ _ _ _
  | fadd | fmul | feval => exact sameButCaches_withElements s c _ _ (sameButCaches_next _ _)
  | flog | flogP => exact sameButCaches_withElements s c _ _ (sameButCaches_logarithm s c _ _ _)
  | finv rd rs1 =>
    refine sameButCaches_withElements s c _ _ ?_
    rw [withCaches_mod, withCaches_poly]
    cases finv s.field.mod (s.poly rs1) <;> exact sameButCaches_next _ _
  | fdiv rd rs1 rs2 =>
    refine sameButCaches_withElements s c _ _ ?_
    rw [withCaches_mod, withCaches_poly]
    cases finv s.field.mod (s.poly rs2) <;> exact sameButCaches_next _ _
  | fpow rd rs1 rs2 =>
    refine sameButCaches_withElements s c _ _ ?_
    rw [withCaches_mod, withCaches_poly, withCaches_signed]
    cases fpow s.field.mod (s.poly rs1) (s.signed rs2) <;> exact sameButCaches_next _ _
  | fconj rs1 =>
    refine sameButCaches_withElements s c _ _ ?_
    rw [withCaches_mod, withCaches_poly]
    cases conjSeq s.field.mod (s.poly rs1) <;> exact sameButCaches_next _ _
  | fminp rd rs1 =>
    refine sameButCaches_withElements s c _ _ ?_
    rw [withCaches_mod, withCaches_poly]
    cases conjSeq s.field.mod (s.poly rs1) with
    | none => exact sameButCaches_next _ _
    | some cs => exact sameButCaches_ite (sameButCaches_next _ _) (sameButCaches_next _ _)
  | mrref =>
    unfold exec execMrref
    exact sameButCaches_withInput s c _ fun k n M => sameButCaches_next _ _
  | mxrref =>
    unfold exec execMxrref
    exact sameButCaches_withInput s c _ fun k n M => sameButCaches_next _ _
  | mrinv =>
    unfold exec execMrinv
    refine sameButCaches_withInput s c _ fun k n M => ?_
    exact sameButCaches_ite (sameButCaches_next _ _) (sameButCaches_next _ _)
  | mnull =>
    unfold exec execMnull
    refine sameButCaches_withInput s c _ fun k n M => ?_
    exact sameButCaches_ite (sameButCaches_next _ _) (sameButCaches_next _ _)

/-- Settles O60: the two runs differ in the caches alone. -/
theorem cachesAreTransparent : Obligations.CachesAreTransparent :=
  fun i s t c h => exec_sameButCaches i s c t h

end Sys2Proof.Machine

/-! ### The address map and its inverse

Every word of the map but the reserved ones stands at one index (20_memory.md R101). -/

namespace Sys2Proof.Machine

/-- The index at which a word stands. The reserved words share one: they stand at many, of which this is the last. -/
def PortWord.index : PortWord → Nat
  | .id => 0x000
  | .cmd => 0x001
  | .status => 0x002
  | .ctrl => 0x003
  | .cmdCount => 0x004
  | .fieldK => 0x005
  | .fieldMod => 0x006
  | .fieldPrim => 0x007
  | .fieldOrder => 0x008
  | .pivCnt => 0x009
  | .conjCnt => 0x00A
  | .bdim b => 0x00C + b.val
  | .g r => 0x010 + r.val
  | .pivot p => 0x040 + p.val
  | .conj c => 0x080 + c.val
  | .bank b r => 0x100 + 64 * b.val + r.val
  | .reserved => 0xFFF

/-- `PortWord.index` inverts the map: below 0x00B word by word, from there on in each of the ranges. -/
theorem reserved_or_index_portWord (i : BitVec 12) : portWord i = .reserved ∨ (portWord i).index = i.toNat := by
  obtain hlow | hhigh := Nat.lt_or_ge i.toNat 0x00B
  · right
    unfold portWord
    generalize i.toNat = n at hlow ⊢
    interval_cases n <;> rfl
  · rw [portWord_ranges i hhigh]
    split_ifs
    on_goal 6 => exact .inl rfl
    all_goals
      right
      simp only [PortWord.index, Fin.val_ofNat]
      omega

theorem index_portWord (i : BitVec 12) (h : portWord i ≠ .reserved) : (portWord i).index = i.toNat :=
  (reserved_or_index_portWord i).resolve_left h

/-- No two indices share a word that is not reserved. -/
theorem portWord_ne (i j : BitVec 12) (h : portWord i ≠ .reserved) (hij : j ≠ i) : portWord j ≠ portWord i := by
  intro heq
  have hj := index_portWord j (heq ▸ h)
  rw [heq, index_portWord i h] at hj
  exact hij (BitVec.eq_of_toNat_eq hj.symm)

end Sys2Proof.Machine

/-! ### Reads of the port -/

namespace Sys2Proof.Machine

/-- On an idle core a read returns the value of the word the map names. -/
theorem portRead_of_idle (s : State) (i : BitVec 12) (hb : s.busy = none) :
    s.portRead i = s.wordValue (portWord i) := by
  simp [State.portRead, State.readIsDraw, hb]

/-- A read of an idle core is no draw, so that it leaves all as it is. -/
theorem afterRead_of_idle (s : State) (i : BitVec 12) (hb : s.busy = none) : s.afterRead i = s := by
  simp [State.afterRead, State.readIsDraw, hb]

/-- Nor is the read of a word that is defined while busy (70_reset_and_hazards.md R461). -/
theorem afterRead_of_definedWhileBusy (s : State) (i : BitVec 12) (h : (portWord i).definedWhileBusy = true) :
    s.afterRead i = s := by
  simp [State.afterRead, State.readIsDraw, h]

/-- What a read of a word that is defined while busy returns, for the word its index names. -/
theorem portRead_of_portWord {i : BitVec 12} {w : PortWord} (s : State) (hword : portWord i = w)
    (hdef : w.definedWhileBusy = true) : s.portRead i = s.wordValue w := by
  subst hword
  exact portRead_of_definedWhileBusy s i hdef

theorem portRead_id (s : State) : s.portRead 0x000 = idWord := portRead_of_portWord s (portWord_id _ rfl) rfl

theorem portRead_cmd (s : State) : s.portRead 0x001 = 0 := portRead_of_portWord s (portWord_cmd _ rfl) rfl

theorem portRead_status (s : State) : s.portRead 0x002 = s.statusWord :=
  portRead_of_portWord s (portWord_status _ rfl) rfl

theorem portRead_cmdCount (s : State) : s.portRead 0x004 = s.cmdCount :=
  portRead_of_portWord s (portWord_cmdCount _ rfl) rfl

theorem portRead_reserved (s : State) (i : BitVec 12) (h : reservedIndex i.toNat) : s.portRead i = 0 :=
  portRead_of_portWord s (portWord_reserved i h) rfl

/-- A dimension register shows ROWS and COLS at weights 1 and 256 (10_state.md R71). -/
theorem Dim.toWord_toNat (d : Dim) : d.toWord.toNat = d.rows.toNat + 256 * d.cols.toNat := by
  have hrows := d.rows.isLt
  have hcols := d.cols.isLt
  rw [Dim.toWord, BitVec.toNat_ofNat]
  omega

/-- Settles O12: the words that stand at the map's indices, and reads that change at most the draw counter. -/
theorem portReadsFollowTheMap : Obligations.PortReadsFollowTheMap := by
  intro s i
  refine ⟨portRead_id s, portRead_status s, portRead_ctrl s, portRead_cmdCount s, fun hb => ?idle,
    afterRead_of_idle s i, ?frame⟩
  case idle =>
    rw [portRead_of_idle s i hb]
    refine ⟨fun h => ?k, fun h => ?modulus, fun h => ?prim, fun h => ?order, fun h => ?pivCnt, fun h => ?conjCnt,
      fun b h => ?bdim, fun r h => ?reg, fun p h => ?pivot, fun c h => ?conj, fun b r h => ?bank⟩
    case k => rw [portWord_fieldK i h]; exact BitVec.toNat_setWidth_of_le (by decide)
    case modulus => rw [portWord_fieldMod i h]; rfl
    case prim => rw [portWord_fieldPrim i h]; rfl
    case order => rw [portWord_fieldOrder i h]; rfl
    case pivCnt => rw [portWord_pivCnt i h]; exact BitVec.toNat_setWidth_of_le (by decide)
    case conjCnt => rw [portWord_conjCnt i h]; exact BitVec.toNat_setWidth_of_le (by decide)
    case bdim => rw [portWord_bdim i b h]; exact Dim.toWord_toNat _
    case reg => rw [portWord_g i r h]; rfl
    case pivot => rw [portWord_pivot i p h]; exact BitVec.toNat_setWidth_of_le (by decide)
    case conj => rw [portWord_conj i c h]; rfl
    case bank => rw [portWord_bank i b r h]; rfl
  case frame => rcases afterRead_cases s i with h | h <;> rw [h]

end Sys2Proof.Machine

/-! ### Writes of the port -/

namespace Sys2Proof.Machine

/-- A write to a reserved word is ignored, busy or idle (20_memory.md R102). -/
theorem portWrite_reserved (s : State) (i : BitVec 12) (v : Word) (h : portWord i = .reserved) :
    s.portWrite i v = s := by
  rw [State.portWrite, h]
  rfl

/-- The words a write can act on are CMD, CTRL, BDIM0, G0 to G7 and the rows of BANK0, none of them at a read-only
index. -/
theorem writeWord_of_readOnly (s : State) (v : Word) (w : PortWord) (h : readOnlyIndex w.index) :
    s.writeWord v w = s := by
  cases w with
  | cmd | ctrl => exact absurd h (by decide)
  | g r =>
    have hr := r.isLt
    simp only [PortWord.index] at h
    omega
  | bdim b =>
    have hb : b ≠ 0 := by
      rintro rfl
      exact absurd h (by decide)
    exact if_neg hb
  | bank b r =>
    have hr := r.isLt
    have hb : b ≠ 0 := by
      rintro rfl
      simp only [PortWord.index, Fin.val_zero] at h
      omega
    exact if_neg hb
  | _ => rfl

/-- A write to a read-only word changes no state, busy or idle (20_memory.md R103). -/
theorem portWrite_readOnly (s : State) (i : BitVec 12) (v : Word) (h : readOnlyIndex i.toNat) :
    s.portWrite i v = s := by
  by_cases hres : portWord i = .reserved
  · exact portWrite_reserved s i v hres
  · rw [← index_portWord i hres] at h
    exact writeWord_of_readOnly s v _ h

/-- Settles O9: reads and writes of the reserved words, writes to the read-only ones, and the read of CMD. -/
theorem reservedAndReadOnlyWords : Obligations.ReservedAndReadOnlyWords := by
  intro s i v
  exact ⟨fun h => ⟨portRead_reserved s i h, portWrite_reserved s i v (portWord_reserved i h)⟩,
    portWrite_readOnly s i v, portRead_cmd s⟩

/-! What the words of an idle core read after each of the three stores a port write makes. -/

theorem wordValue_setReg (s : State) (r : Reg) (v : Word) (w : PortWord) :
    (s.setReg r v).wordValue w = if w = .g r then v else s.wordValue w := by
  cases w with
  | g q => simp only [State.wordValue, State.reg_setReg, PortWord.g.injEq]
  | _ => rfl

theorem wordValue_setDim (s : State) (b : Fin 4) (d : Dim) (w : PortWord) :
    (s.setDim b d).wordValue w = if w = .bdim b then d.toWord else s.wordValue w := by
  cases w with
  | bdim a =>
    simp only [State.wordValue, State.dim_setDim, PortWord.bdim.injEq]
    exact apply_ite Dim.toWord _ _ _
  | _ => rfl

theorem wordValue_setBankRow (s : State) (b : Fin 4) (r : Fin 64) (v : Word) (w : PortWord) :
    (s.setBankRow b r v).wordValue w = if w = .bank b r then v else s.wordValue w := by
  cases w with
  | bank a q => simp only [State.wordValue, State.bankRow_setBankRow, PortWord.bank.injEq]
  | _ => rfl

theorem whenIdle_of_idle (s t : State) (hb : s.busy = none) : s.whenIdle t = t := by simp [State.whenIdle, hb]

/-- On an idle core a write to any word but CMD and CTRL leaves the core idle and every other word as it was. -/
theorem writeWord_frame (s : State) (v : Word) (w : PortWord) (hb : s.busy = none) (hcmd : w ≠ .cmd)
    (hctrl : w ≠ .ctrl) :
    (s.writeWord v w).busy = none ∧ ∀ w', w' ≠ w → (s.writeWord v w).wordValue w' = s.wordValue w' := by
  cases w with
  | cmd => exact absurd rfl hcmd
  | ctrl => exact absurd rfl hctrl
  | g r =>
    simp only [State.writeWord, whenIdle_of_idle s _ hb]
    exact ⟨hb, fun w' hw => (wordValue_setReg s r v w').trans (if_neg hw)⟩
  | bdim b =>
    simp only [State.writeWord, whenIdle_of_idle s _ hb]
    split
    · next h0 => exact ⟨hb, fun w' hw => (wordValue_setDim s 0 _ w').trans (if_neg (h0 ▸ hw))⟩
    · exact ⟨hb, fun _ _ => rfl⟩
  | bank b r =>
    simp only [State.writeWord, whenIdle_of_idle s _ hb]
    split
    · next h0 => exact ⟨hb, fun w' hw => (wordValue_setBankRow s 0 r v w').trans (if_neg (h0 ▸ hw))⟩
    · exact ⟨hb, fun _ _ => rfl⟩
  | _ => exact ⟨hb, fun _ _ => rfl⟩

/-- A word that is not reserved is reached by its own index alone. -/
theorem portWord_ne_of_index_ne (i : BitVec 12) (w : PortWord) (hw : w ≠ .reserved) (h : i.toNat ≠ w.index) :
    portWord i ≠ w := by
  rintro rfl
  exact h (index_portWord i hw).symm

/-- On an idle core a write to any index but those of CMD and CTRL leaves what the others read. -/
theorem portRead_portWrite_ne (s : State) (i j : BitVec 12) (v : Word) (hb : s.busy = none) (hcmd : i.toNat ≠ 0x001)
    (hctrl : i.toNat ≠ 0x003) (hij : j ≠ i) : (s.portWrite i v).portRead j = s.portRead j := by
  by_cases hres : portWord i = .reserved
  · rw [portWrite_reserved s i v hres]
  · obtain ⟨hidle, hframe⟩ := writeWord_frame s v (portWord i) hb
      (portWord_ne_of_index_ne i .cmd (by decide) hcmd) (portWord_ne_of_index_ne i .ctrl (by decide) hctrl)
    rw [portRead_of_idle (s.portWrite i v) j hidle, portRead_of_idle s j hb]
    exact hframe _ (portWord_ne i j hres hij)

/-- A general register written on an idle core reads back. -/
theorem portRead_portWrite_g (s : State) (i : BitVec 12) (v : Word) (r : Reg) (hb : s.busy = none)
    (h : portWord i = .g r) : (s.portWrite i v).portRead i = v := by
  have hw : s.portWrite i v = s.setReg r v := by
    rw [State.portWrite, h]
    exact whenIdle_of_idle s _ hb
  rw [hw, portRead_of_idle (s.setReg r v) i hb, wordValue_setReg, if_pos h]

/-- A row of BANK0 written on an idle core reads back. -/
theorem portRead_portWrite_bank (s : State) (i : BitVec 12) (v : Word) (r : Fin 64) (hb : s.busy = none)
    (h : portWord i = .bank 0 r) : (s.portWrite i v).portRead i = v := by
  have hw : s.portWrite i v = s.setBankRow 0 r v := by
    rw [State.portWrite, h]
    exact whenIdle_of_idle s _ hb
  rw [hw, portRead_of_idle (s.setBankRow 0 r v) i hb, wordValue_setBankRow, if_pos h]

/-- BDIM0 written on an idle core reads as the dimensions that were kept. -/
theorem portRead_portWrite_bdim (s : State) (i : BitVec 12) (v : Word) (hb : s.busy = none)
    (h : portWord i = .bdim 0) : (s.portWrite i v).portRead i = (Dim.ofWord v).toWord := by
  have hw : s.portWrite i v = s.setDim 0 (Dim.ofWord v) := by
    rw [State.portWrite, h]
    exact whenIdle_of_idle s _ hb
  rw [hw, portRead_of_idle (s.setDim 0 (Dim.ofWord v)) i hb, wordValue_setDim, if_pos h]

/-- The mask 0x7F7F keeps bits 6:0 and 14:8. -/
theorem and_mask_7F7F (n : Nat) : n &&& 0x7F7F = n % 2 ^ 7 + 2 ^ 8 * (n / 2 ^ 8 % 2 ^ 7) := by
  have hmask : 0x7F7F = 2 ^ 8 * (2 ^ 7 - 1) + (2 ^ 7 - 1) := by decide
  refine Nat.eq_of_testBit_eq fun j => ?_
  rw [hmask, Nat.add_comm (n % 2 ^ 7), Nat.testBit_and, Nat.testBit_two_pow_mul_add _ (by decide),
    Nat.testBit_two_pow_mul_add _ (by omega)]
  split
  · rw [Nat.testBit_two_pow_sub_one, Nat.testBit_mod_two_pow, Bool.and_comm]
  · rw [Nat.testBit_two_pow_sub_one, Nat.testBit_mod_two_pow, Nat.testBit_div_two_pow, Bool.and_comm,
      Nat.sub_add_cancel (by omega)]

/-- BDIM0 keeps bits 6:0 and 14:8 of what is written (10_state.md R71). -/
theorem Dim.toWord_ofWord (v : Word) : (Dim.ofWord v).toWord = v &&& 0x7F7F := by
  refine BitVec.eq_of_toNat_eq ?_
  have hmask : (v &&& 0x7F7F).toNat = v.toNat &&& 0x7F7F := BitVec.toNat_and _ _
  rw [hmask, and_mask_7F7F, Dim.toWord_toNat]
  simp only [Dim.ofWord, bits, BitVec.toNat_ofNat]
  omega

/-- Settles O11: read-back word by word, and the frame of a write to any word but CMD and CTRL. -/
theorem hostWriteReadsBack : Obligations.HostWriteReadsBack := by
  intro s i v hb
  refine ⟨?readBack, fun h => ?bdim0, fun hcmd hctrl j hij => portRead_portWrite_ne s i j v hb hcmd hctrl hij⟩
  case readBack =>
    rintro (⟨hlo, hhi⟩ | ⟨hlo, hhi⟩)
    · exact portRead_portWrite_g s i v ⟨i.toNat - 0x010, by omega⟩ hb (portWord_g i _ (by dsimp only; omega))
    · exact portRead_portWrite_bank s i v ⟨i.toNat - 0x100, by omega⟩ hb
        (portWord_bank i 0 _ (by simp only [Fin.val_zero]; omega))
  case bdim0 => rw [portRead_portWrite_bdim s i v hb (portWord_bdim i 0 h), Dim.toWord_ofWord]

end Sys2Proof.Machine

/-! ### The host's actions as steps -/

namespace Sys2Proof.Machine

/-- Where the next step is the host's, it is the action that heads the list. -/
theorem step_of_pending (s : State) (op : HostOp) (rest : List HostOp) (h : HostActs s)
    (hp : s.pending = op :: rest) : step s = (s.hostTurn (op :: rest)).hostStep := by
  rw [step_of_hostActs s h, hp]

theorem step_write (s : State) (i : BitVec 12) (v : Word) (rest : List HostOp) (h : HostActs s)
    (hp : s.pending = .write i v :: rest) : step s = .next ((s.hostTurn rest).portWrite i v) := by
  rw [step_of_pending s _ rest h hp]
  rfl

theorem step_read (s : State) (i : BitVec 12) (rest : List HostOp) (h : HostActs s)
    (hp : s.pending = .read i :: rest) :
    step s = .next (((s.hostTurn rest).afterRead i).reply (.word i ((s.hostTurn rest).portRead i))) := by
  rw [step_of_pending s _ rest h hp]
  rfl

/-- The taking of a host action shows in no field of STATUS, so that a read of STATUS logs what it was before. -/
theorem hostRead_status_hostTurn (s : State) (ops : List HostOp) :
    (s.hostTurn ops).hostRead statusIndex = (s.hostTurn ops).reply (.word 0x002 s.statusWord) := by
  have hword : portWord statusIndex = .status := portWord_status _ rfl
  rw [State.hostRead, afterRead_of_definedWhileBusy _ _ (by rw [hword]; rfl), statusIndex, portRead_status]
  rfl

/-- A WAIT reads STATUS and stays pending while the core is busy (30_encoding.md R162). -/
theorem step_wait (s : State) (rest : List HostOp) (h : HostActs s) (hp : s.pending = .wait :: rest) :
    step s = .next ((s.hostTurn (if s.busy.isSome then .wait :: rest else rest)).reply (.word 0x002 s.statusWord)) := by
  have hturn : (s.hostTurn (.wait :: rest)).hostStep =
      if s.busy.isSome then .next ((s.hostTurn (.wait :: rest)).hostRead statusIndex)
      else .next ((s.hostTurn rest).hostRead statusIndex) := rfl
  rw [step_of_pending s _ rest h hp, hturn]
  split <;> rw [hostRead_status_hostTurn]

/-- A CMD write to an idle core is its acceptance (60_exceptions.md R405). -/
theorem portWrite_cmd_of_idle (s : State) (v : Word) (hb : s.busy = none) : s.portWrite 0x001 v = s.accept v := by
  rw [State.portWrite, portWord_cmd 0x001 rfl]
  exact whenIdle_of_idle s _ hb

/-- Settles O7: the three port actions, and acceptance as the port write to CMD on an idle core. -/
theorem hostActionsStepThePortAndCmdIsAccepted : Obligations.HostActionsStepThePortAndCmdIsAccepted := by
  refine ⟨step_write, step_read, ?wait, ?accept⟩
  case wait =>
    rintro s rest after h hp rfl
    exact step_wait s rest h hp
  case accept =>
    intro s v rest hb hp
    refine ⟨(s.hostTurn rest).accept v, ?_, rfl, rfl, rfl, rfl, rfl, rfl, fun _ _ => rfl, rfl,
      fun _ _ => ⟨rfl, fun _ => rfl⟩, ⟨rfl, fun _ => rfl⟩, ⟨rfl, fun _ => rfl⟩, rfl⟩
    rw [step_write s 0x001 v rest (.inl hb) hp, portWrite_cmd_of_idle (s.hostTurn rest) v hb]

end Sys2Proof.Machine

/-! ### The byte-bus bridge -/

namespace Sys2Proof.Machine

/-- The lowest n bytes of a number, lowest first, are its value below 2^(8n): byte 0 is the remainder by 256, and the
others are the bytes of the quotient. -/
theorem bytesWord_range_map (n v : Nat) :
    bytesWord ((List.range n).map fun j => BitVec.ofNat 8 (v / 2 ^ (8 * j))) = v % 2 ^ (8 * n) := by
  induction n generalizing v with
  | zero => simp [bytesWord, Nat.mod_one]
  | succ n ih =>
    have hshift : ∀ j, v / 2 ^ (8 * (j + 1)) = v / 256 / 2 ^ (8 * j) := fun j => by
      rw [Nat.div_div_eq_div_mul, Nat.mul_succ, Nat.pow_add, Nat.mul_comm]
    have htail : (fun j => BitVec.ofNat 8 (v / 2 ^ (8 * j))) ∘ Nat.succ =
        fun j => BitVec.ofNat 8 (v / 256 / 2 ^ (8 * j)) := funext fun j => congrArg _ (hshift j)
    rw [List.range_succ_eq_map, List.map_cons, List.map_map, htail, bytesWord, ih, BitVec.toNat_ofNat, Nat.mul_zero,
      Nat.pow_zero, Nat.div_one, Nat.mul_succ, Nat.add_comm (8 * n), Nat.pow_add]
    exact (Nat.mod_mul (a := 256)).symm

theorem bytesWord_wordBytes (v : Word) : bytesWord (wordBytes v) = v.toNat := by
  rw [wordBytes, bytesWord_range_map]
  exact Nat.mod_eq_of_lt v.isLt

@[simp] theorem wordBytes_length (v : Word) : (wordBytes v).length = 8 := rfl

/-- Byte j carries bits 8j+7 to 8j (20_memory.md R112). -/
theorem wordBytes_getElem? (v : Word) (j : Nat) (hj : j < 8) :
    (wordBytes v)[j]? = some (BitVec.ofNat 8 (bits v (8 * j + 7) (8 * j))) := by
  have hwidth : 8 * j + 7 + 1 - 8 * j = 8 := by omega
  rw [wordBytes, List.getElem?_map, List.getElem?_range hj, bits, hwidth]
  exact congrArg some (BitVec.eq_of_toNat_eq (by simp))

theorem bits_lt (v : Word) (hi lo : Nat) : bits v hi lo < 2 ^ (hi + 1 - lo) := Nat.mod_lt _ (Nat.two_pow_pos _)

/-- The bridge forwards exactly the aligned accesses of eight bytes (20_memory.md R113). -/
theorem busForwarded_iff (a : BitVec 15) (width : Nat) : busForwarded a width = true ↔ a.toNat % 8 = 0 ∧ width = 8 := by
  simp [busForwarded]

/-- The bytes 8i to 8i+7 are those of word i. -/
theorem busIndex_of_toNat (a : BitVec 15) (i : BitVec 12) (h : a.toNat = 8 * i.toNat) : busIndex a = i := by
  have hi := i.isLt
  refine BitVec.eq_of_toNat_eq ?_
  rw [busIndex, BitVec.toNat_ofNat, h]
  omega

/-- An aligned write of eight bytes is the port write of the word they make. -/
theorem step_busWrite (s : State) (i : BitVec 12) (a : BitVec 15) (bs : List Byte) (rest : List HostOp)
    (h : HostActs s) (ha : a.toNat = 8 * i.toNat) (hlen : bs.length = 8) (hp : s.pending = .busWrite a bs :: rest) :
    step s = .next ((s.hostTurn rest).portWrite i (BitVec.ofNat 64 (bytesWord bs))) := by
  have hfwd : busForwarded a bs.length = true := (busForwarded_iff _ _).mpr ⟨by omega, hlen⟩
  rw [step_of_pending s _ rest h hp, ← busIndex_of_toNat a i ha]
  exact if_pos hfwd

/-- An aligned read of eight bytes is the port read of their word. -/
theorem step_busRead (s : State) (i : BitVec 12) (a : BitVec 15) (rest : List HostOp) (h : HostActs s)
    (ha : a.toNat = 8 * i.toNat) (hp : s.pending = .busRead a 8 :: rest) :
    step s = .next (((s.hostTurn rest).afterRead i).reply (.bytes a (wordBytes ((s.hostTurn rest).portRead i)))) := by
  have hfwd : busForwarded a 8 = true := (busForwarded_iff _ _).mpr ⟨by omega, rfl⟩
  rw [step_of_pending s _ rest h hp, ← busIndex_of_toNat a i ha]
  exact if_pos hfwd

theorem step_busWrite_refused (s : State) (a : BitVec 15) (bs : List Byte) (rest : List HostOp) (h : HostActs s)
    (hp : s.pending = .busWrite a bs :: rest) (hbad : a.toNat % 8 ≠ 0 ∨ bs.length ≠ 8) :
    step s = .refused .busAccessNotForwarded := by
  have hfwd : ¬busForwarded a bs.length = true := by
    rw [busForwarded_iff]
    omega
  rw [step_of_pending s _ rest h hp]
  exact if_neg hfwd

theorem step_busRead_refused (s : State) (a : BitVec 15) (width : Nat) (rest : List HostOp) (h : HostActs s)
    (hp : s.pending = .busRead a width :: rest) (hbad : a.toNat % 8 ≠ 0 ∨ width ≠ 8) :
    step s = .refused .busAccessNotForwarded := by
  have hfwd : ¬busForwarded a width = true := by
    rw [busForwarded_iff]
    omega
  rw [step_of_pending s _ rest h hp]
  exact if_neg hfwd

/-- Settles O19: the lanes of a word, and the step of each bus access, forwarded or refused. -/
theorem bridgeIsLittleEndian : Obligations.BridgeIsLittleEndian := by
  refine ⟨fun v j hj => ?lane, fun v => ⟨wordBytes_length v, bytesWord_wordBytes v⟩, ?write, step_busRead,
    step_busWrite_refused, step_busRead_refused⟩
  case lane =>
    have hlt := bits_lt v (8 * j + 7) (8 * j)
    rw [show 8 * j + 7 + 1 - 8 * j = 8 by omega] at hlt
    exact ⟨_, wordBytes_getElem? v j hj, by rw [BitVec.toNat_ofNat, Nat.mod_eq_of_lt hlt]⟩
  case write =>
    intro s i v rest h hp
    have hi := i.isLt
    have haddr : (BitVec.ofNat 15 (8 * i.toNat)).toNat = 8 * i.toNat := by
      rw [BitVec.toNat_ofNat]
      omega
    rw [step_busWrite s i _ _ rest h haddr (wordBytes_length v) hp, bytesWord_wordBytes, BitVec.ofNat_toNat,
      BitVec.setWidth_eq]

end Sys2Proof.Machine

/-! ### The fields of a word and the command they make

A word is its fields (30_encoding.md R151), and the fields of a command decode to that command, so that decoding and
encoding are inverse through `Instr.fields`. -/

namespace Sys2Proof

/-- A flag field is the digit of its bit. -/
theorem toNat_bits_eq_one (w : Word) (n : Nat) : (bits w n n == 1).toNat = bits w n n := by
  have hbit := Machine.bits_lt w n n
  rw [Nat.add_sub_cancel_left] at hbit
  interval_cases bits w n n <;> rfl

/-- The fields cover the word. -/
theorem Fields.toWord_ofWord (w : Word) : (Fields.ofWord w).toWord = w := by
  have hw := w.isLt
  apply BitVec.eq_of_toNat_eq
  simp only [Fields.toWord, Fields.ofWord, toNat_bits_eq_one]
  simp only [regField, Fin.val_ofNat, BitVec.toNat_ofNat, bits]
  omega

theorem Fields.ofWord_injective : Function.Injective Fields.ofWord :=
  Function.LeftInverse.injective Fields.toWord_ofWord

theorem Fields.ofWord_encode (i : Instr) : Fields.ofWord (encode i) = i.fields := by
  have hop : i.fields.op = i.opcode := by cases i <;> rfl
  have hrsv : i.fields.rsv = 0 := by cases i <;> rfl
  have hhigh : i.fields.high = 0 := by cases i <;> rfl
  exact Fields.ofWord_toWord i.fields (hop ▸ i.opcode_lt) (by omega) (by omega)

theorem whenUnusedZero_eq_ok_iff (c : Bool) (i j : Instr) : whenUnusedZero c i = .ok j ↔ c = true ∧ i = j := by
  cases c <;> simp [whenUnusedZero]

theorem whenDistinct_eq_ok_iff (i j : Instr) : whenDistinct i = .ok j ↔ i.wf = true ∧ i = j := by
  cases h : i.wf <;> simp [whenDistinct, h]

/-- The fields of a command reach the row of its opcode with every unused field zero; only the destination check of
30_encoding.md R154 is left. -/
theorem Fields.decode_fields (i : Instr) : i.fields.decode = whenDistinct i := by
  cases i <;> rfl

/-- The row of the opcode map that accepts the fields leaves no field free but those of its command. -/
theorem eq_fields_of_decodeOp (f : Fields) (i : Instr) (hrsv : f.rsv = 0) (hhigh : f.high = 0)
    (h : decodeOp f = .ok i) : f = i.fields ∧ i.wf = true := by
  obtain ⟨op, rd, rs1, rs2, rd2, rd3, flag, rsv, high⟩ := f
  unfold decodeOp at h
  dsimp only at h hrsv hhigh
  split at h
  -- PDIVMOD and PGCD, the two with a destination check
  case h_4 | h_6 =>
    split at h
    next j hj =>
      obtain ⟨hunused, rfl⟩ := (whenUnusedZero_eq_ok_iff _ _ _).mp hj
      obtain ⟨hwf, rfl⟩ := (whenDistinct_eq_ok_iff _ _).mp h
      simp_all [Instr.fields, Fields.ofOp, Instr.opcode]
    next => cases h
  -- FCFG and FLOG, each with a second command at F = 1
  case h_8 | h_14 =>
    split at h <;> obtain ⟨hunused, rfl⟩ := (whenUnusedZero_eq_ok_iff _ _ _).mp h <;>
      simp_all [Instr.fields, Fields.ofOp, Instr.opcode, Instr.wf]
  -- the reserved opcodes
  case h_22 => cases h
  all_goals
    obtain ⟨hunused, rfl⟩ := (whenUnusedZero_eq_ok_iff _ _ _).mp h
    simp_all [Instr.fields, Fields.ofOp, Instr.opcode, Instr.wf]

theorem Fields.decode_eq_ok_iff (f : Fields) (i : Instr) : f.decode = .ok i ↔ f = i.fields ∧ i.wf = true := by
  constructor
  · intro h
    unfold Fields.decode at h
    split_ifs at h with hhigh hrsv
    exact eq_fields_of_decodeOp f i (by simpa using hrsv) (by simpa using hhigh) h
  · rintro ⟨rfl, hwf⟩
    rw [Fields.decode_fields, whenDistinct_eq_ok_iff]
    exact ⟨hwf, rfl⟩

/-- Settles O1: the encoded word has the fields of the command. -/
theorem decodeEncodeRoundTrip : Obligations.DecodeEncodeRoundTrip := by
  intro i hwf
  rw [decode, Fields.ofWord_encode, Fields.decode_eq_ok_iff]
  exact ⟨rfl, hwf⟩

/-- Settles O2: the word has the fields of the command, as its encoding has. -/
theorem legalWordReencodes : Obligations.LegalWordReencodes := by
  intro w i h
  obtain ⟨hfields, hwf⟩ := (Fields.decode_eq_ok_iff _ i).mp h
  refine ⟨?_, hwf⟩
  rw [encode, ← hfields, Fields.toWord_ofWord]

/-- Settles O4 by running the decoder on the seven words. -/
theorem sampleWordsDecode : Obligations.SampleWordsDecode := by
  unfold Obligations.SampleWordsDecode
  decide

end Sys2Proof

/-! ### The opcode table and the decoder

The match of a row is a match field by field. A row therefore admits exactly the fields of one command, whose registers
are those of the word (30_encoding.md R153, R155). -/

namespace Sys2Proof

/-- The conjunction of two words, on their fields. -/
def Fields.and (f g : Fields) : Fields :=
  { op := f.op &&& g.op, rd := f.rd &&& g.rd, rs1 := f.rs1 &&& g.rs1, rs2 := f.rs2 &&& g.rs2, rd2 := f.rd2 &&& g.rd2,
    rd3 := f.rd3 &&& g.rd3, f := f.f && g.f, rsv := f.rsv &&& g.rsv, high := f.high &&& g.high }

theorem bits_and (v w : Word) (hi lo : Nat) : bits (v &&& w) hi lo = bits v hi lo &&& bits w hi lo := by
  simp only [bits, BitVec.toNat_and, Nat.and_div_two_pow, Nat.and_mod_two_pow]

theorem regField_and (v w : Word) (lo : Nat) : regField (v &&& w) lo = regField v lo &&& regField w lo := by
  rw [Fin.ext_iff, Fin.and_val]
  simp only [regField, bits_and, Fin.val_ofNat]
  exact Nat.and_mod_two_pow (n := 3)

theorem flag_and (v w : Word) (n : Nat) : (bits (v &&& w) n n == 1) = ((bits v n n == 1) && (bits w n n == 1)) := by
  have hv := Machine.bits_lt v n n
  have hw := Machine.bits_lt w n n
  rw [Nat.add_sub_cancel_left] at hv hw
  rw [bits_and]
  interval_cases bits v n n <;> interval_cases bits w n n <;> rfl

theorem Fields.ofWord_and (v w : Word) : Fields.ofWord (v &&& w) = (Fields.ofWord v).and (Fields.ofWord w) := by
  simp only [Fields.ofWord, Fields.and, regField_and, flag_and, ← bits_and]

/-- The row's mask and pattern met field by field. -/
def OpcodeRow.Admits (a : OpcodeRow) (f : Fields) : Prop :=
  f.and (Fields.ofWord (a.mask.zeroExtend 64)) = Fields.ofWord (a.pattern.zeroExtend 64)

theorem matches_iff_admits (w : BitVec 32) (a : OpcodeRow) :
    w &&& a.mask = a.pattern ↔ a.Admits (Fields.ofWord (w.zeroExtend 64)) := by
  rw [OpcodeRow.Admits, ← Fields.ofWord_and, Fields.ofWord_injective.eq_iff, ← BitVec.setWidth_and]
  constructor
  · exact congrArg (BitVec.setWidth 64)
  · intro h
    simpa using congrArg (BitVec.setWidth 32) h

/-- The command of each row, in the table's order, with the registers that `f` names. -/
def Fields.commands (f : Fields) : List Instr :=
  [.cflush, .padd f.rd f.rs1 f.rs2, .pmul f.rd f.rs1 f.rs2, .pdivmod f.rd f.rd2 f.rs1 f.rs2, .pdeg f.rd f.rs1,
   .pgcd f.rd f.rd2 f.rd3 f.rs1 f.rs2, .ppow f.rd f.rs1 f.rs2, .fcfg f.rs1 f.rs2, .fcfgD f.rs1,
   .fadd f.rd f.rs1 f.rs2, .fmul f.rd f.rs1 f.rs2, .finv f.rd f.rs1, .fdiv f.rd f.rs1 f.rs2, .fpow f.rd f.rs1 f.rs2,
   .flog f.rd f.rs1 f.rs2, .flogP f.rd f.rs1, .fconj f.rs1, .fminp f.rd f.rs1, .feval f.rd f.rs1 f.rs2, .mrref,
   .mxrref, .mrinv, .mnull]

theorem mem_commands_fields (i : Instr) : i ∈ i.fields.commands := by
  cases i <;> simp [Fields.commands, Instr.fields]

/-- A mask keeps a register field or clears it. -/
theorem Reg.and_zero (r : Reg) : r &&& 0 = 0 := by
  revert r
  decide

theorem Reg.and_seven (r : Reg) : r &&& 7 = r := by
  revert r
  decide

/-- Row by row: the mask leaves exactly the fields that the row's command uses, and the pattern is the rest of them. -/
theorem opcodeTable_admits_iff (f : Fields) (hop : f.op < 2 ^ 8) (hrsv : f.rsv < 2 ^ 8) (hhigh : f.high = 0) :
    List.Forall₂ (fun a i => a.mnemonic = i.mnemonic ∧ (a.Admits f ↔ f = i.fields)) opcodeTable f.commands := by
  obtain ⟨op, rd, rs1, rs2, rd2, rd3, flag, rsv, high⟩ := f
  have hop' : op &&& 255 = op := Nat.and_two_pow_sub_one_of_lt_two_pow (n := 8) hop
  have hrsv' : rsv &&& 255 = rsv := Nat.and_two_pow_sub_one_of_lt_two_pow (n := 8) hrsv
  dsimp only at hhigh
  simp only [opcodeTable, Fields.commands, List.forall₂_cons, List.forall₂_nil_left_iff, Instr.mnemonic, true_and,
    and_true]
  and_intros
  all_goals
    simp [OpcodeRow.Admits, Fields.and, Fields.ofWord, regField, bits, Instr.fields, Fields.ofOp, Instr.opcode,
      Reg.and_zero, Reg.and_seven, hop', hrsv', hhigh]

/-- The same for a 32-bit word in a CMD write, whose fields are in range. -/
theorem opcodeTable_matches_iff (w : BitVec 32) :
    List.Forall₂ (fun a i => a.mnemonic = i.mnemonic ∧
      (w &&& a.mask = a.pattern ↔ Fields.ofWord (w.zeroExtend 64) = i.fields))
      opcodeTable (Fields.ofWord (w.zeroExtend 64)).commands := by
  have hhigh : bits (w.zeroExtend 64) 63 32 = 0 := by
    have hw := w.isLt
    simp only [bits, BitVec.toNat_setWidth]
    omega
  simp only [matches_iff_admits]
  exact opcodeTable_admits_iff _ (Machine.bits_lt _ 7 0) (Machine.bits_lt _ 31 24) hhigh

/-- Members of related lists have their partners. -/
theorem exists_mem_of_forall₂ {α β : Type} {R : α → β → Prop} {l : List α} {m : List β} (h : List.Forall₂ R l m) :
    ∀ a ∈ l, ∃ b ∈ m, R a b := by
  induction h with
  | nil => simp
  | cons hab _ ih =>
    intro a ha
    rcases List.mem_cons.mp ha with rfl | htail
    · exact ⟨_, .head _, hab⟩
    · obtain ⟨b, hb, hr⟩ := ih a htail
      exact ⟨b, .tail _ hb, hr⟩

/-- The word of a command, well formed or not, matches the row of the command's mnemonic. -/
theorem exists_row_of_fields (w : BitVec 32) (i : Instr) (h : Fields.ofWord (w.zeroExtend 64) = i.fields) :
    ∃ a ∈ opcodeTable, w &&& a.mask = a.pattern ∧ a.mnemonic = i.mnemonic := by
  have hi : i ∈ (Fields.ofWord (w.zeroExtend 64)).commands := h ▸ mem_commands_fields i
  obtain ⟨a, ha, hname, hmatch⟩ := exists_mem_of_forall₂ (opcodeTable_matches_iff w).flip i hi
  exact ⟨a, ha, hmatch.mpr h, hname⟩

/-- A word that matches a row has the fields of a command of that mnemonic. -/
theorem exists_fields_of_row (w : BitVec 32) (a : OpcodeRow) (ha : a ∈ opcodeTable) (h : w &&& a.mask = a.pattern) :
    ∃ i : Instr, i.mnemonic = a.mnemonic ∧ Fields.ofWord (w.zeroExtend 64) = i.fields := by
  obtain ⟨i, _, hname, hmatch⟩ := exists_mem_of_forall₂ (opcodeTable_matches_iff w) a ha
  exact ⟨i, hname.symm, hmatch.mp h⟩

/-- Two rows whose patterns agree on the bits that both masks fix are the same row. -/
theorem opcodeTable_disjoint :
    ∀ a ∈ opcodeTable, ∀ b ∈ opcodeTable, a.pattern &&& b.mask = b.pattern &&& a.mask → a = b := by
  decide

theorem row_unique (w : BitVec 32) (a b : OpcodeRow) (ha : a ∈ opcodeTable) (hb : b ∈ opcodeTable)
    (hwa : w &&& a.mask = a.pattern) (hwb : w &&& b.mask = b.pattern) : a = b := by
  apply opcodeTable_disjoint a ha b hb
  rw [← hwa, ← hwb, BitVec.and_assoc, BitVec.and_assoc, BitVec.and_comm a.mask]

/-- Only PDIVMOD and PGCD have destinations that can be equal (30_encoding.md R154). -/
theorem mnemonic_of_not_wf (i : Instr) (h : i.wf = false) : i.mnemonic = "PDIVMOD" ∨ i.mnemonic = "PGCD" := by
  cases i with
  | pdivmod => exact .inl rfl
  | pgcd => exact .inr rfl
  | _ => cases h

/-- Settles O3: the word is its fields, which are those of the command that the matched row names. -/
theorem wordMatchesOneTableRow : Obligations.WordMatchesOneTableRow := by
  refine fun w => ⟨fun a ha b hb => row_unique w a b ha hb, fun i h => ?_, fun a ha h => ?_⟩
  · obtain ⟨hfields, _⟩ := (Fields.decode_eq_ok_iff _ i).mp h
    exact exists_row_of_fields w i hfields
  · obtain ⟨i, hname, hfields⟩ := exists_fields_of_row w a ha h
    have hdecode : decode (w.zeroExtend 64) = whenDistinct i := by rw [decode, hfields, Fields.decode_fields]
    cases hwf : i.wf with
    | true => exact .inl ⟨i, hdecode.trans ((whenDistinct_eq_ok_iff i i).mpr ⟨hwf, rfl⟩), hname⟩
    | false => exact .inr ⟨hdecode.trans (by simp [whenDistinct, hwf]), hname ▸ mnemonic_of_not_wf i hwf⟩

end Sys2Proof

/-! ### Polynomials over GF(2)

The model holds a polynomial as the number of its coefficient bits. `toPoly` reads that number as a polynomial of Mathlib,
and each operation of the model is tied to the ring's operation there. -/

namespace Sys2Proof.Machine

/-- The polynomial over GF(2) of the low `n` bits of `a`. -/
noncomputable def lowPoly (a n : Nat) : Polynomial (ZMod 2) :=
  ∑ i ∈ Finset.range n, Polynomial.monomial i ((a.testBit i).toNat : ZMod 2)

/-- The polynomial over GF(2) whose coefficient of X^i is bit i of `a` (00_scope.md R11). -/
noncomputable def toPoly (a : Nat) : Polynomial (ZMod 2) := lowPoly a (Nat.log2 a + 1)

theorem coeff_lowPoly (a n i : Nat) (h : a < 2 ^ n) : (lowPoly a n).coeff i = ((a.testBit i).toNat : ZMod 2) := by
  simp only [lowPoly, Polynomial.finsetSum_coeff, Polynomial.coeff_monomial, Finset.sum_ite_eq', Finset.mem_range]
  split
  · rfl
  · rw [Nat.testBit_lt_two_pow (h.trans_le (Nat.pow_le_pow_right (by decide) (by omega)))]
    rfl

@[simp] theorem coeff_toPoly (a i : Nat) : (toPoly a).coeff i = ((a.testBit i).toNat : ZMod 2) :=
  coeff_lowPoly a _ i Nat.lt_log2_self

/-- Bits beyond a bound of `a` add nothing. -/
theorem lowPoly_eq_toPoly (a n : Nat) (h : a < 2 ^ n) : lowPoly a n = toPoly a := by
  ext i
  rw [coeff_lowPoly a n i h, coeff_toPoly]

theorem testBit_of_log2_lt (a i : Nat) (h : Nat.log2 a < i) : a.testBit i = false :=
  Nat.testBit_lt_two_pow (Nat.lt_log2_self.trans_le (Nat.pow_le_pow_right (by decide) h))

/-- A bit is its coefficient in GF(2). -/
theorem bit_cast_injective : Function.Injective fun b : Bool => ((b.toNat : Nat) : ZMod 2) := by
  unfold Function.Injective
  decide

theorem bit_cast_xor (b c : Bool) : (((b ^^ c).toNat : Nat) : ZMod 2) = b.toNat + c.toNat := by
  cases b <;> cases c <;> rfl

theorem bit_cast_and (b c : Bool) : (((b && c).toNat : Nat) : ZMod 2) = b.toNat * c.toNat := by
  cases b <;> cases c <;> rfl

theorem toPoly_injective : Function.Injective toPoly := fun a b h =>
  Nat.eq_of_testBit_eq fun i => bit_cast_injective <| by
    simpa using congrArg (fun p => p.coeff i) h

@[simp] theorem toPoly_zero : toPoly 0 = 0 := by ext i; simp

@[simp] theorem toPoly_one : toPoly 1 = 1 := by
  ext i
  cases i <;> simp [Polynomial.coeff_one, Nat.testBit_succ]

@[simp] theorem toPoly_eq_zero_iff (a : Nat) : toPoly a = 0 ↔ a = 0 :=
  ⟨fun h => toPoly_injective (h.trans toPoly_zero.symm), fun h => h ▸ toPoly_zero⟩

theorem toPoly_ne_zero {a : Nat} (ha : a ≠ 0) : toPoly a ≠ 0 := (toPoly_eq_zero_iff a).not.mpr ha

/-- Addition and subtraction are XOR (00_scope.md R11). -/
@[simp] theorem toPoly_xor (a b : Nat) : toPoly (a ^^^ b) = toPoly a + toPoly b := by
  ext i
  simp [bit_cast_xor]

@[simp] theorem toPoly_shiftLeft (a d : Nat) : toPoly (a <<< d) = toPoly a * Polynomial.X ^ d := by
  ext i
  rw [Polynomial.coeff_mul_X_pow', coeff_toPoly, Nat.testBit_shiftLeft]
  by_cases h : d ≤ i <;> simp [h]

theorem natDegree_toPoly (a : Nat) : (toPoly a).natDegree = Nat.log2 a := by
  rcases eq_or_ne a 0 with rfl | ha
  · simp
  · refine Polynomial.natDegree_eq_of_le_of_coeff_ne_zero ?_ ?_
    · exact Polynomial.natDegree_le_iff_coeff_eq_zero.mpr fun i hi => by
        rw [coeff_toPoly, testBit_of_log2_lt a i hi]; rfl
    · rw [coeff_toPoly, Nat.testBit_log2 ha]
      exact one_ne_zero

/-- A nonzero polynomial over GF(2) has leading coefficient 1. -/
theorem monic_toPoly (a : Nat) (ha : a ≠ 0) : (toPoly a).Monic := by
  rw [Polynomial.Monic, Polynomial.leadingCoeff, natDegree_toPoly, coeff_toPoly, Nat.testBit_log2 ha]
  rfl

/-! Facts about `deg` (00_scope.md R14). -/

@[simp] theorem deg_zero : deg 0 = -1 := rfl

theorem deg_of_ne_zero (a : Nat) (ha : a ≠ 0) : deg a = (toPoly a).natDegree := by
  rw [deg, if_neg ha, natDegree_toPoly]

theorem deg_nonneg (a : Nat) (ha : a ≠ 0) : 0 ≤ deg a := by
  rw [deg_of_ne_zero a ha]
  exact Int.natCast_nonneg _

theorem neg_one_le_deg (a : Nat) : -1 ≤ deg a := by
  rcases eq_or_ne a 0 with rfl | ha
  · exact le_refl _
  · exact le_trans (by decide) (deg_nonneg a ha)

/-- A number has degree below n exactly when it fits in n bits. -/
theorem deg_lt_iff (a n : Nat) : deg a < n ↔ a < 2 ^ n := by
  unfold deg
  split
  · next h => subst h; exact iff_of_true (by omega) (Nat.two_pow_pos n)
  · next h => rw [Int.ofNat_lt, Nat.log2_lt h]

theorem deg_xor_lt (a b n : Nat) (ha : deg a < n) (hb : deg b < n) : deg (a ^^^ b) < n := by
  rw [deg_lt_iff] at *
  exact Nat.xor_lt_two_pow ha hb

theorem deg_xor_le (a b : Nat) : deg (a ^^^ b) ≤ max (deg a) (deg b) := by
  have ha := neg_one_le_deg a
  have hb := neg_one_le_deg b
  have h := deg_xor_lt a b (max (deg a) (deg b) + 1).toNat (by omega) (by omega)
  omega

/-- Terms of smaller degree leave the degree as it is. -/
theorem deg_xor_eq_left (a b : Nat) (h : deg b < deg a) : deg (a ^^^ b) = deg a := by
  have hle := deg_xor_le a b
  have hge := deg_xor_le (a ^^^ b) b
  rw [Nat.xor_assoc, Nat.xor_self, Nat.xor_zero] at hge
  omega

/-- Two polynomials of one degree cancel in their highest bit. -/
theorem deg_xor_lt_of_deg_eq (a b : Nat) (hb : b ≠ 0) (h : deg a = deg b) : deg (a ^^^ b) < deg b := by
  have hdeg : deg b = Nat.log2 b := if_neg hb
  obtain ⟨ha, hlog⟩ := ne_zero_and_log2_of_deg a _ (h.trans hdeg)
  rw [hdeg, deg_lt_iff]
  refine Nat.lt_pow_two_of_testBit _ fun i hi => ?_
  rw [Nat.testBit_xor]
  rcases hi.eq_or_lt with rfl | hi
  · rw [Nat.testBit_log2 hb, ← hlog, Nat.testBit_log2 ha]
    rfl
  · rw [testBit_of_log2_lt a i (by omega), testBit_of_log2_lt b i hi]
    rfl

/-- `deg` orders polynomials as their degrees do. -/
theorem degree_toPoly_lt_iff (a b : Nat) : (toPoly a).degree < (toPoly b).degree ↔ deg a < deg b := by
  rcases eq_or_ne b 0 with rfl | hb
  · have := neg_one_le_deg a
    simp; omega
  · rw [Polynomial.degree_eq_natDegree (toPoly_ne_zero hb), deg_of_ne_zero b hb]
    rcases eq_or_ne a 0 with rfl | ha
    · simp; omega
    · rw [Polynomial.degree_eq_natDegree (toPoly_ne_zero ha), deg_of_ne_zero a ha, Nat.cast_lt, Int.ofNat_lt]

/-- The degree of a product (40_ring.md R210), for whatever number is the product. -/
theorem deg_of_toPoly_eq_mul (c a b : Nat) (ha : a ≠ 0) (hb : b ≠ 0) (h : toPoly c = toPoly a * toPoly b) :
    deg c = deg a + deg b := by
  have hc : c ≠ 0 := fun hc => mul_ne_zero (toPoly_ne_zero ha) (toPoly_ne_zero hb) (by rw [← h, hc, toPoly_zero])
  rw [deg_of_ne_zero c hc, h, Polynomial.natDegree_mul (toPoly_ne_zero ha) (toPoly_ne_zero hb), deg_of_ne_zero a ha,
    deg_of_ne_zero b hb]
  push_cast
  rfl

theorem deg_shiftLeft (a d : Nat) (ha : a ≠ 0) : deg (a <<< d) = deg a + d := by
  rw [deg_of_ne_zero _ (by simp [ha]), toPoly_shiftLeft, Polynomial.natDegree_mul_X_pow d (toPoly_ne_zero ha),
    deg_of_ne_zero a ha]
  rfl

end Sys2Proof.Machine

/-! ### The carry-less product -/

namespace Sys2Proof.Machine

/-- The loop adds a·X^i for each bit i of b below n (40_ring.md R210). -/
theorem toPoly_clmulUpTo (a b n : Nat) : toPoly (clmulUpTo a b n) = toPoly a * lowPoly b n := by
  unfold lowPoly
  induction n with
  | zero => simp [clmulUpTo]
  | succ n ih =>
    rw [clmulUpTo, Finset.sum_range_succ, mul_add]
    cases b.testBit n with
    | false => simp [ih]
    | true => simp [ih, Polynomial.X_pow_eq_monomial]

/-- `clmul` is the product of the ring when its second operand fits in a word (40_ring.md R210). -/
theorem toPoly_clmul (a b : Nat) (hb : b < 2 ^ 64) : toPoly (clmul a b) = toPoly a * toPoly b := by
  rw [clmul, toPoly_clmulUpTo, lowPoly_eq_toPoly b 64 hb]

theorem deg_clmul (a b : Nat) (hb : b < 2 ^ 64) (ha0 : a ≠ 0) (hb0 : b ≠ 0) : deg (clmul a b) = deg a + deg b :=
  deg_of_toPoly_eq_mul _ a b ha0 hb0 (toPoly_clmul a b hb)

theorem zero_clmul (b : Nat) : clmul 0 b = 0 :=
  toPoly_injective <| by rw [clmul, toPoly_clmulUpTo, toPoly_zero, zero_mul]

theorem clmul_zero (a : Nat) : clmul a 0 = 0 :=
  toPoly_injective <| by simp [toPoly_clmul a 0 (by decide)]

theorem deg_clmul_le (a b : Nat) (hb : b < 2 ^ 64) : deg (clmul a b) ≤ max (-1) (deg a + deg b) := by
  rcases eq_or_ne a 0 with rfl | ha0
  · rw [zero_clmul, deg_zero]
    exact le_max_left _ _
  · rcases eq_or_ne b 0 with rfl | hb0
    · rw [clmul_zero, deg_zero]
      exact le_max_left _ _
    · exact (deg_clmul a b hb ha0 hb0).le.trans (le_max_right _ _)

/-- The XOR that `convBit` folds is the sum of the terms in GF(2). -/
theorem foldl_xor_cast (f : Nat → Bool) (n : Nat) :
    ((((List.range n).foldl (fun acc i => acc ^^ f i) false).toNat : Nat) : ZMod 2) =
      ∑ i ∈ Finset.range n, ((f i).toNat : ZMod 2) := by
  induction n with
  | zero => rfl
  | succ n ih => simp [List.range_succ, Finset.sum_range_succ, bit_cast_xor, ih]

/-- Bit j of a product is its convolution (40_ring.md R210). -/
theorem testBit_clmul (a b j : Nat) (hb : b < 2 ^ 64) : (clmul a b).testBit j = convBit a b j := by
  apply bit_cast_injective
  simp only [convBit, foldl_xor_cast, bit_cast_and, ← coeff_toPoly, toPoly_clmul a b hb]
  rw [Polynomial.coeff_mul, Finset.Nat.sum_antidiagonal_eq_sum_range_succ_mk]

/-- Settles O26: the product of the ring has convolution coefficients, and degrees add in it. -/
theorem clmulIsConvolution : Obligations.ClmulIsConvolution := by
  intro a b _ hb
  refine ⟨fun j => testBit_clmul a b j hb, deg_clmul a b hb, ?_⟩
  rintro (rfl | rfl)
  · exact zero_clmul b
  · exact clmul_zero a

end Sys2Proof.Machine

/-! ### Division with remainder -/

namespace Sys2Proof.Machine

/-- The loop adds its quotient bits to the ones it is given. -/
theorem pdivmodLoop_quotient (b fuel q r : Nat) :
    pdivmodLoop b fuel q r = (q ||| (pdivmodLoop b fuel 0 r).1, (pdivmodLoop b fuel 0 r).2) := by
  induction fuel generalizing q r with
  | zero => simp [pdivmodLoop]
  | succ fuel ih =>
    rw [pdivmodLoop, pdivmodLoop]
    split
    · dsimp only
      rw [ih (q ||| _), ih (0 ||| _), Nat.zero_or, Nat.or_assoc]
    · simp

/-- One turn of the loop lowers the degree of the remainder (40_ring.md R220). -/
theorem deg_xor_shiftLeft_lt (a b : Nat) (hb : b ≠ 0) (h : deg b ≤ deg a) :
    deg (a ^^^ b <<< (deg a - deg b).toNat) < deg a := by
  have hb0 := deg_nonneg b hb
  have hshift := deg_shiftLeft b (deg a - deg b).toNat hb
  have heq : deg a = deg (b <<< (deg a - deg b).toNat) := by omega
  calc deg (a ^^^ b <<< (deg a - deg b).toNat)
      < deg (b <<< (deg a - deg b).toNat) := deg_xor_lt_of_deg_eq a _ (by simp [hb]) heq
    _ = deg a := heq.symm

/-- A quotient bit above all the others is added without a carry. -/
theorem toPoly_shiftLeft_or (d q : Nat) (hq : q < 2 ^ d) : toPoly (1 <<< d ||| q) = toPoly q + Polynomial.X ^ d := by
  have h : 1 <<< d ||| q = q ^^^ 1 <<< d := by
    refine Nat.eq_of_testBit_eq fun i => ?_
    rw [Nat.testBit_or, Nat.testBit_xor, Nat.one_shiftLeft, Nat.testBit_two_pow]
    rcases eq_or_ne d i with rfl | hi
    · simp [Nat.testBit_lt_two_pow hq]
    · simp [hi]
  simp [h]

/-- The loop divides (40_ring.md R220), and its quotient has no bit above the difference of the degrees. -/
theorem pdivmodLoop_spec (b fuel a : Nat) (hb : b ≠ 0) (hfuel : deg a < fuel) :
    toPoly a = toPoly b * toPoly (pdivmodLoop b fuel 0 a).1 + toPoly (pdivmodLoop b fuel 0 a).2 ∧
      deg (pdivmodLoop b fuel 0 a).2 < deg b ∧
      (pdivmodLoop b fuel 0 a).1 < 2 ^ (deg a - deg b + 1).toNat := by
  induction fuel generalizing a with
  | zero =>
    have ha := neg_one_le_deg a
    have hb0 := deg_nonneg b hb
    exact ⟨by simp [pdivmodLoop], by simp only [pdivmodLoop]; omega, Nat.two_pow_pos _⟩
  | succ fuel ih =>
    rw [pdivmodLoop]
    split
    next hle =>
      have hlt := deg_xor_shiftLeft_lt a b hb hle
      obtain ⟨hsum, hrem, hquot⟩ := ih (a ^^^ b <<< (deg a - deg b).toNat) (by omega)
      have hquot' : (pdivmodLoop b fuel 0 (a ^^^ b <<< (deg a - deg b).toNat)).1 < 2 ^ (deg a - deg b).toNat :=
        hquot.trans_le (Nat.pow_le_pow_right (by decide) (by omega))
      dsimp only
      rw [pdivmodLoop_quotient, Nat.zero_or]
      refine ⟨?_, hrem, ?_⟩
      · rw [toPoly_shiftLeft_or _ _ hquot']
        rw [toPoly_xor, toPoly_shiftLeft] at hsum
        linear_combination hsum - CharTwo.add_self_eq_zero (toPoly b * Polynomial.X ^ (deg a - deg b).toNat)
      · refine Nat.or_lt_two_pow ?_ ?_
        · rw [Nat.one_shiftLeft]
          exact Nat.pow_lt_pow_right (by decide) (by omega)
        · exact hquot'.trans_le (Nat.pow_le_pow_right (by decide) (by omega))
    next hgt => exact ⟨by simp, not_le.mp hgt, Nat.two_pow_pos _⟩

/-- The fuel of `pdivmod` is enough. -/
theorem deg_lt_log2_succ (a : Nat) : deg a < (Nat.log2 a + 1 : Nat) := (deg_lt_iff a _).mpr Nat.lt_log2_self

/-- The remainder has a smaller degree than the divisor (40_ring.md R220). -/
theorem deg_pdivmod_snd_lt (a b : Nat) (hb : b ≠ 0) : deg (pdivmod a b).2 < deg b := by
  obtain ⟨_, hrem, _⟩ := pdivmodLoop_spec b _ a hb (deg_lt_log2_succ a)
  exact hrem

/-- `pdivmod` gives the quotient and the remainder of the ring (40_ring.md R220). -/
theorem toPoly_pdivmod (a b : Nat) (hb : b ≠ 0) :
    toPoly (pdivmod a b).1 = toPoly a / toPoly b ∧ toPoly (pdivmod a b).2 = toPoly a % toPoly b := by
  obtain ⟨hsum, hrem, _⟩ := pdivmodLoop_spec b _ a hb (deg_lt_log2_succ a)
  have hmonic := monic_toPoly b hb
  obtain ⟨hquot, hmod⟩ := Polynomial.div_modByMonic_unique (toPoly (pdivmod a b).1) (toPoly (pdivmod a b).2) hmonic
    ⟨(add_comm _ _).trans hsum.symm, (degree_toPoly_lt_iff _ _).mpr hrem⟩
  exact ⟨by rw [← hquot, Polynomial.divByMonic_eq_div _ hmonic], by rw [← hmod, Polynomial.modByMonic_eq_mod _ hmonic]⟩

/-- The quotient and the remainder give the dividend back (40_ring.md R220). -/
theorem toPoly_pdivmod_sum (a b : Nat) (hb : b ≠ 0) :
    toPoly b * toPoly (pdivmod a b).1 + toPoly (pdivmod a b).2 = toPoly a := by
  obtain ⟨hquot, hrem⟩ := toPoly_pdivmod a b hb
  rw [hquot, hrem]
  exact EuclideanDomain.div_add_mod _ _

/-- The degree of the quotient (40_ring.md R220): the dividend less its remainder is the product. -/
theorem deg_pdivmod_fst (a b : Nat) (hb : b ≠ 0) (h : deg b ≤ deg a) : deg (pdivmod a b).1 = deg a - deg b := by
  have hsum := toPoly_pdivmod_sum a b hb
  have hrem := deg_pdivmod_snd_lt a b hb
  have hquot : (pdivmod a b).1 ≠ 0 := fun h0 => by
    rw [h0, toPoly_zero, mul_zero, zero_add] at hsum
    rw [toPoly_injective hsum] at hrem
    omega
  have hproduct : toPoly (a ^^^ (pdivmod a b).2) = toPoly b * toPoly (pdivmod a b).1 := by
    rw [toPoly_xor, ← hsum, add_assoc, CharTwo.add_self_eq_zero, add_zero]
  have hdeg := deg_of_toPoly_eq_mul _ b _ hb hquot hproduct
  rw [deg_xor_eq_left a _ (by omega)] at hdeg
  omega

theorem deg_pdivmod_fst_le (a b : Nat) (hb : b ≠ 0) : deg (pdivmod a b).1 ≤ deg a := by
  rcases lt_or_ge (deg a) (deg b) with h | h
  · rw [pdivmod_of_deg_lt a b h]
    exact neg_one_le_deg a
  · have hdeg := deg_pdivmod_fst a b hb h
    have hb0 := deg_nonneg b hb
    omega

theorem deg_pdivmod_snd_le (a b : Nat) (hb : b ≠ 0) : deg (pdivmod a b).2 ≤ deg a := by
  have hrem := deg_pdivmod_snd_lt a b hb
  rcases lt_or_ge (deg a) (deg b) with h | h
  · rw [pdivmod_of_deg_lt a b h]
  · omega

/-- Quotient and remainder need no more bits than the dividend (40_ring.md R245). -/
theorem pdivmod_lt_two_pow (a b n : Nat) (ha : a < 2 ^ n) (hb : b ≠ 0) :
    (pdivmod a b).1 < 2 ^ n ∧ (pdivmod a b).2 < 2 ^ n := by
  simp only [← deg_lt_iff] at *
  exact ⟨(deg_pdivmod_fst_le a b hb).trans_lt ha, (deg_pdivmod_snd_le a b hb).trans_lt ha⟩

/-- Settles O27: the loop divides, as its quotient and remainder are those of the ring. -/
theorem pdivmodIsDivision : Obligations.PdivmodIsDivision := by
  intro a b ha _ hb
  obtain ⟨hquot, _⟩ := pdivmod_lt_two_pow a b 64 ha hb
  refine ⟨toPoly_injective ?_, deg_pdivmod_snd_lt a b hb, deg_pdivmod_fst a b hb, pdivmod_of_deg_lt a b,
    deg_pdivmod_snd_le a b hb⟩
  rw [toPoly_xor, toPoly_clmul b _ hquot, toPoly_pdivmod_sum a b hb]

end Sys2Proof.Machine

/-! ### The extended Euclidean algorithm -/

namespace Sys2Proof.Machine

/-- d is the greatest common divisor of x and y and s·x + t·y (40_ring.md R230), and the degrees of s and t fall short of
those of y and x by that of d, but where an operand is 0 or both have one degree (R232). -/
structure BezoutSum (x y d s t : Nat) : Prop where
  gcd : toPoly d = EuclideanDomain.gcd (toPoly x) (toPoly y)
  sum : toPoly d = toPoly s * toPoly x + toPoly t * toPoly y
  deg_s : deg s + deg d < max (deg y) (deg x + 1)
  deg_t : deg t + deg d < max (deg x) (deg y + 1)

theorem egcdRec_zero_left (fuel y : Nat) : egcdRec fuel 0 y = (y, 0, 1) := by
  cases fuel <;> simp [egcdRec]

theorem bezoutSum_zero_left (y : Nat) : BezoutSum 0 y y 0 1 where
  gcd := by simp
  sum := by simp
  deg_s := by rw [deg_zero]; omega
  deg_t := by rw [show deg 1 = 0 from rfl]; omega

/-- One call of `egcd` turns the Bezout sum of (y mod x, x) into one of (x, y) (40_ring.md R230). -/
theorem BezoutSum.step {x y d s t : Nat} (hx : x ≠ 0) (hy : y < 2 ^ 64) (h : BezoutSum (pdivmod y x).2 x d s t) :
    BezoutSum x y d (t ^^^ clmul s (pdivmod y x).1) s := by
  have hquot := (pdivmod_lt_two_pow y x 64 hy hx).1
  have hrem := deg_pdivmod_snd_lt y x hx
  have hs := h.deg_s
  have ht := h.deg_t
  refine ⟨?_, ?_, ?_, by omega⟩
  · rw [EuclideanDomain.gcd_val, h.gcd, (toPoly_pdivmod y x hx).2]
  · rw [toPoly_xor, toPoly_clmul _ _ hquot, h.sum, ← toPoly_pdivmod_sum y x hx]
    linear_combination -CharTwo.add_self_eq_zero (toPoly s * toPoly x * toPoly (pdivmod y x).1)
  · have hxor := deg_xor_le t (clmul s (pdivmod y x).1)
    have hproduct : deg (clmul s (pdivmod y x).1) + deg d < max (deg y) (deg x + 1) := by
      rcases lt_or_ge (deg y) (deg x) with hlt | hge
      · have hs1 := neg_one_le_deg s
        rw [pdivmod_of_deg_lt y x hlt, clmul_zero, deg_zero]
        omega
      · have hle := deg_clmul_le s _ hquot
        have hs1 := neg_one_le_deg s
        rw [deg_pdivmod_fst y x hx hge] at hle
        omega
    omega

theorem egcdRec_bezoutSum (fuel x y : Nat) (hfuel : deg x < fuel) (hx : x < 2 ^ 64) (hy : y < 2 ^ 64) :
    BezoutSum x y (egcdRec fuel x y).1 (egcdRec fuel x y).2.1 (egcdRec fuel x y).2.2 := by
  induction fuel generalizing x y with
  | zero =>
    obtain rfl : x = 0 := by simpa using (deg_lt_iff x 0).mp hfuel
    exact bezoutSum_zero_left y
  | succ fuel ih =>
    rcases eq_or_ne x 0 with rfl | hx0
    · rw [egcdRec_zero_left]
      exact bezoutSum_zero_left y
    · have hrem := deg_pdivmod_snd_lt y x hx0
      rw [egcdRec, if_neg hx0]
      exact (ih _ x (by omega) (pdivmod_lt_two_pow y x 64 hy hx0).2 hx).step hx0 hy

/-- `egcd` gives a Bezout sum of its operands (40_ring.md R230). -/
theorem egcd_bezoutSum (x y : Nat) (hx : x < 2 ^ 64) (hy : y < 2 ^ 64) :
    BezoutSum x y (egcd x y).1 (egcd x y).2.1 (egcd x y).2.2 :=
  egcdRec_bezoutSum _ x y ((deg_lt_log2_succ x).trans (by omega)) hx hy

theorem BezoutSum.dvd {x y d s t : Nat} (h : BezoutSum x y d s t) : toPoly d ∣ toPoly x ∧ toPoly d ∣ toPoly y := by
  rw [h.gcd]
  exact ⟨EuclideanDomain.gcd_dvd_left _ _, EuclideanDomain.gcd_dvd_right _ _⟩

theorem ne_zero_of_dvd (d x : Nat) (hx : x ≠ 0) (h : toPoly d ∣ toPoly x) : d ≠ 0 := by
  rintro rfl
  rw [toPoly_zero, zero_dvd_iff, toPoly_eq_zero_iff] at h
  exact hx h

/-- A divisor of a polynomial other than 0 has at most its degree. -/
theorem deg_le_of_dvd (d x : Nat) (hx : x ≠ 0) (h : toPoly d ∣ toPoly x) : deg d ≤ deg x := by
  rw [deg_of_ne_zero d (ne_zero_of_dvd d x hx h), deg_of_ne_zero x hx, Int.ofNat_le]
  exact Polynomial.natDegree_le_of_dvd h (toPoly_ne_zero hx)

/-- No result of `egcd` needs more than 64 bits (40_ring.md R232). -/
theorem egcd_lt_two_pow (x y : Nat) (hx : x < 2 ^ 64) (hy : y < 2 ^ 64) :
    (egcd x y).1 < 2 ^ 64 ∧ (egcd x y).2.1 < 2 ^ 64 ∧ (egcd x y).2.2 < 2 ^ 64 := by
  rcases eq_or_ne x 0 with rfl | hx0
  · rw [egcd, egcdRec_zero_left]
    exact ⟨hy, Nat.two_pow_pos 64, Nat.one_lt_two_pow (by decide)⟩
  · have h := egcd_bezoutSum x y hx hy
    have hd0 := deg_nonneg _ (ne_zero_of_dvd _ x hx0 h.dvd.1)
    have hdx := deg_le_of_dvd _ x hx0 h.dvd.1
    have hs := h.deg_s
    have ht := h.deg_t
    rw [← deg_lt_iff] at hx hy
    exact ⟨(deg_lt_iff _ 64).mp (by omega), (deg_lt_iff _ 64).mp (by omega), (deg_lt_iff _ 64).mp (by omega)⟩

/-- Divisibility of polynomials, by a cofactor that needs no more bits than the dividend. -/
theorem exists_clmul_of_dvd (d x : Nat) (hd : d < 2 ^ 64) (hx : x < 2 ^ 64) (h : toPoly d ∣ toPoly x) :
    ∃ u, u < 2 ^ 64 ∧ x = clmul u d := by
  rcases eq_or_ne d 0 with rfl | hd0
  · rw [toPoly_zero, zero_dvd_iff, toPoly_eq_zero_iff] at h
    exact ⟨0, by decide, h.trans (clmul_zero 0).symm⟩
  · refine ⟨(pdivmod x d).1, (pdivmod_lt_two_pow x d 64 hx hd0).1, toPoly_injective ?_⟩
    rw [toPoly_clmul _ _ hd, (toPoly_pdivmod x d hd0).1, mul_comm,
      EuclideanDomain.mul_div_cancel' (toPoly_ne_zero hd0) h]

/-- Settles O28: each call keeps the Bezout sum and the bounds of the degrees. -/
theorem egcdIsBezoutInSixtyFourBits : Obligations.EgcdIsBezoutInSixtyFourBits := by
  intro x y hx hy
  obtain ⟨hd, hs, ht⟩ := egcd_lt_two_pow x y hx hy
  have h := egcd_bezoutSum x y hx hy
  refine ⟨hd, hs, ht, toPoly_injective ?_, exists_clmul_of_dvd _ x hd hx h.dvd.1, exists_clmul_of_dvd _ y hd hy h.dvd.2⟩
  rw [toPoly_xor, toPoly_clmul _ _ hx, toPoly_clmul _ _ hy, ← h.sum]

end Sys2Proof.Machine

/-! ### Powers by squaring -/

namespace Sys2Proof.Machine

/-- A number fits in n + 1 bits exactly when its polynomial has degree at most n. -/
theorem lt_two_pow_succ_iff (a n : Nat) : a < 2 ^ (n + 1) ↔ (toPoly a).natDegree ≤ n := by
  rcases eq_or_ne a 0 with rfl | ha
  · simp
  · rw [natDegree_toPoly, ← Nat.log2_lt ha, Nat.lt_succ_iff]

/-- The n-fold product is the power of the ring (40_ring.md R240). -/
theorem toPoly_polyPower (a n : Nat) (ha : a < 2 ^ 64) : toPoly (polyPower a n) = toPoly a ^ n := by
  induction n with
  | zero => exact toPoly_one
  | succ n ih => rw [polyPower, toPoly_clmul _ _ ha, ih, pow_succ]

theorem toPoly_clmul_self (a : Nat) (ha : (toPoly a).natDegree ≤ 63) : toPoly (clmul a a) = toPoly a ^ 2 := by
  rw [toPoly_clmul a a ((lt_two_pow_succ_iff a 63).mpr ha), sq]

/-- Squaring computes the power of the ring as long as that power fits in a word: then so does each square it multiplies
(40_ring.md R240). -/
theorem toPoly_powSqRec (fuel a n : Nat) (hfuel : n < 2 ^ fuel) (hfit : (toPoly a).natDegree * n ≤ 63) :
    toPoly (powSqRec clmul 1 fuel a n) = toPoly a ^ n := by
  induction fuel generalizing a n with
  | zero =>
    obtain rfl : n = 0 := by omega
    exact toPoly_one
  | succ fuel ih =>
    by_cases h0 : n = 0
    · rw [powSqRec, if_pos h0, h0, toPoly_one, pow_zero]
    by_cases h1 : n = 1
    · rw [powSqRec, if_neg h0, if_pos h1, h1, pow_one]
    have hsquare := toPoly_clmul_self a ((Nat.le_mul_of_pos_right _ (by omega)).trans hfit)
    have hpower (m : Nat) (hm : 2 * m ≤ n) :
        toPoly (powSqRec clmul 1 fuel (clmul a a) m) = toPoly a ^ (2 * m) := by
      rw [ih (clmul a a) m (by omega), hsquare, pow_mul]
      rw [hsquare, Polynomial.natDegree_pow]
      calc 2 * (toPoly a).natDegree * m = (toPoly a).natDegree * (2 * m) := by ring
        _ ≤ (toPoly a).natDegree * n := Nat.mul_le_mul_left _ hm
        _ ≤ 63 := hfit
    rw [powSqRec, if_neg h0, if_neg h1]
    split
    next heven => rw [hpower _ (by omega), show 2 * (n / 2) = n by omega]
    next hodd =>
      have hlt : powSqRec clmul 1 fuel (clmul a a) ((n - 1) / 2) < 2 ^ 64 := by
        rw [lt_two_pow_succ_iff, hpower _ (by omega), Polynomial.natDegree_pow, mul_comm]
        exact (Nat.mul_le_mul_left _ (by omega)).trans hfit
      rw [toPoly_clmul _ _ hlt, hpower _ (by omega), ← pow_succ', show 2 * ((n - 1) / 2) + 1 = n by omega]

/-- The power that PPOW writes is the n-fold product and fits in a word (40_ring.md R240, R241). -/
theorem powSq_clmul (a n : Nat) (ha : a < 2 ^ 64) (hfit : a = 0 ∨ deg a * n ≤ 63) :
    powSq clmul 1 a n = polyPower a n ∧ powSq clmul 1 a n < 2 ^ 64 := by
  have hfit' : (toPoly a).natDegree * n ≤ 63 := by
    rcases eq_or_ne a 0 with rfl | ha0
    · simp
    · have h := hfit.resolve_left ha0
      rw [deg_of_ne_zero a ha0] at h
      exact_mod_cast h
  have hpower := toPoly_powSqRec _ a n (Nat.lt_log2_self (n := n)) hfit'
  refine ⟨toPoly_injective (hpower.trans (toPoly_polyPower a n ha).symm), ?_⟩
  rw [lt_two_pow_succ_iff, powSq, hpower, Polynomial.natDegree_pow, mul_comm]
  exact hfit'

end Sys2Proof.Machine

/-! ### The ring commands

What a command leaves unchanged is built up write by write. -/

namespace Sys2Proof.Machine

theorem OnlyRegs.refl (rs : List Reg) (s : State) : OnlyRegs rs s s :=
  ⟨fun _ _ => rfl, rfl, fun _ _ => ⟨rfl, fun _ => rfl⟩, ⟨rfl, fun _ => rfl⟩, ⟨rfl, fun _ => rfl⟩, rfl, rfl, rfl, rfl⟩

/-- The caches are no part of what software can see. -/
theorem OnlyRegs.useCaches {rs : List Reg} {s t : State} (h : OnlyRegs rs s t) (u : CacheUse) :
    OnlyRegs rs s (t.useCaches u) := h

theorem OnlyRegs.completeOk {rs : List Reg} {s t : State} (h : OnlyRegs rs s t) (op : BitVec 8) (nf : Bool) :
    OnlyRegs rs s (t.completeOk op nf) := h

theorem OnlyRegs.setReg {rs : List Reg} {s t : State} (h : OnlyRegs rs s t) (r : Reg) (hr : r ∈ rs) (v : Word) :
    OnlyRegs rs s (t.setReg r v) := by
  obtain ⟨hregs, hrest⟩ := h
  refine ⟨fun q hq => ?_, hrest⟩
  rw [State.reg_setReg_ne t r q v fun hqr => hq (hqr ▸ hr), hregs q hq]

theorem OnlyRegs.setPoly {rs : List Reg} {s t : State} (h : OnlyRegs rs s t) (r : Reg) (hr : r ∈ rs) (a : Nat) :
    OnlyRegs rs s (t.setPoly r a) := h.setReg r hr _

theorem State.poly_lt (s : State) (r : Reg) : s.poly r < 2 ^ 64 := (s.reg r).isLt

/-- A result that fits in a word is written exactly (40_ring.md R245). -/
theorem State.poly_setPoly_same (s : State) (r : Reg) (a : Nat) (ha : a < 2 ^ 64) : (s.setPoly r a).poly r = a := by
  rw [State.poly, State.setPoly_eq, State.reg_setReg_same, BitVec.toNat_ofNat, Nat.mod_eq_of_lt ha]

theorem State.poly_setPoly_ne (s : State) (r q : Reg) (a : Nat) (h : q ≠ r) : (s.setPoly r a).poly q = s.poly q := by
  rw [State.poly, State.setPoly_eq, State.reg_setReg_ne s r q _ h, State.poly]

@[simp] theorem State.poly_completeOk (s : State) (op : BitVec 8) (nf : Bool) (r : Reg) :
    (s.completeOk op nf).poly r = s.poly r := rfl

/-- A command that writes one exact polynomial and completes. -/
theorem setPoly_completeOk (s : State) (rd : Reg) (a : Nat) (op : BitVec 8) (ha : a < 2 ^ 64) :
    ((s.setPoly rd a).completeOk op false).poly rd = a ∧ EndsOk op false s ((s.setPoly rd a).completeOk op false) ∧
      OnlyRegs [rd] s ((s.setPoly rd a).completeOk op false) ∧
      SameCaches s ((s.setPoly rd a).completeOk op false) :=
  ⟨State.poly_setPoly_same s rd a ha, completeOk_endsOk s _ _ _ rfl rfl, setReg_completeOk_onlyRegs s rd _ _ _, rfl,
    rfl⟩

/-- A command that ends with an error changes no register and no cache. -/
theorem completeError_ends (s : State) (op : BitVec 8) (e : ErrorCode) :
    EndsError op e.code s (s.completeError op e) ∧ OnlyRegs [] s (s.completeError op e) ∧
      SameCaches s (s.completeError op e) :=
  ⟨completeError_endsError s s op e rfl rfl, completeError_onlyRegs s op e⟩

/-- Settles O20: PADD writes one register and completes. -/
theorem paddAddsPolynomials : Obligations.PaddAddsPolynomials := by
  intro rd rs1 rs2 s
  refine ⟨_, rfl, ?_, completeOk_endsOk s _ _ _ rfl rfl, setReg_completeOk_onlyRegs s rd _ _ _, rfl, rfl⟩
  rw [State.completeOk_reg, State.reg_setReg_same]

/-- PMUL completes with the product when its degree is at most 63, and else with EOVF (40_ring.md R211). -/
theorem exec_pmul (rd rs1 rs2 : Reg) (s : State) :
    exec (.pmul rd rs1 rs2) s =
      if deg (clmul (s.poly rs1) (s.poly rs2)) > 63 then .next (s.completeError 0x11 .eovf)
      else .next ((s.setPoly rd (clmul (s.poly rs1) (s.poly rs2))).completeOk 0x11 false) := rfl

/-- Settles O21: the degree of the product is the sum of the degrees. -/
theorem pmulMultipliesOrOverflows : Obligations.PmulMultipliesOrOverflows := by
  intro rd rs1 rs2 s
  rw [exec_pmul]
  refine ⟨fun hfit => ?_, fun ⟨h1, h2, hover⟩ => ?_⟩
  · have hdeg : deg (clmul (s.poly rs1) (s.poly rs2)) < (64 : Nat) := by
      rcases hfit with h | h | h
      · rw [h, zero_clmul, deg_zero]
        decide
      · rw [h, clmul_zero, deg_zero]
        decide
      · have := deg_clmul_le (s.poly rs1) (s.poly rs2) (s.poly_lt rs2)
        omega
    rw [if_neg (by omega)]
    exact ⟨_, rfl, setPoly_completeOk s rd _ 0x11 ((deg_lt_iff _ 64).mp hdeg)⟩
  · rw [if_pos (by rw [deg_clmul _ _ (s.poly_lt rs2) h1 h2]; exact hover)]
    exact ⟨_, rfl, completeError_ends s 0x11 .eovf⟩

/-- PDIVMOD ends with EDIVZERO for a zero divisor and else completes with quotient and remainder (40_ring.md R221). -/
theorem exec_pdivmod (rd rd2 rs1 rs2 : Reg) (s : State) :
    exec (.pdivmod rd rd2 rs1 rs2) s =
      if s.poly rs2 = 0 then .next (s.completeError 0x12 .edivzero)
      else .next ((((s.useCaches CacheUse.division).setPoly rd (pdivmod (s.poly rs1) (s.poly rs2)).1).setPoly rd2
        (pdivmod (s.poly rs1) (s.poly rs2)).2).completeOk 0x12 false) := rfl

/-- Settles O22: quotient and remainder need no more bits than the dividend. -/
theorem pdivmodDividesOrFails : Obligations.PdivmodDividesOrFails := by
  intro rd rd2 rs1 rs2 s hne
  rw [exec_pdivmod]
  refine ⟨fun hdiv => ?_, fun hzero => ?_⟩
  · obtain ⟨hquot, hrem⟩ := pdivmod_lt_two_pow (s.poly rs1) (s.poly rs2) 64 (s.poly_lt rs1) hdiv
    rw [if_neg hdiv]
    refine ⟨_, rfl, ?_, completeOk_endsOk s _ _ _ rfl rfl, ?_, rfl, rfl, rfl⟩
    · rw [State.poly_completeOk, State.poly_completeOk, State.poly_setPoly_same _ _ _ hrem,
        State.poly_setPoly_ne _ _ _ _ hne, State.poly_setPoly_same _ _ _ hquot]
    · exact ((((OnlyRegs.refl _ s).useCaches _).setPoly rd (by simp) _).setPoly rd2 (by simp) _).completeOk _ _
  · rw [if_pos hzero]
    exact ⟨_, rfl, completeError_ends s 0x12 .edivzero⟩

/-- The degree of a word is the index of its highest set bit (00_scope.md R14). -/
theorem deg_of_highest_bit (v : Word) (d : Nat) (hd : v.getLsbD d = true)
    (hhigh : ∀ j, d < j → v.getLsbD j = false) : deg v.toNat = d := by
  have hlt : deg v.toNat < (d + 1 : Nat) :=
    (deg_lt_iff _ _).mpr (Nat.lt_pow_two_of_testBit _ fun i hi => hhigh i hi)
  have hge : ¬deg v.toNat < d := fun h => by
    rw [deg_lt_iff] at h
    rw [BitVec.getLsbD, Nat.testBit_lt_two_pow h] at hd
    cases hd
  omega

/-- Settles O23: a degree in [-1, 63] is exact as a word in two's complement. -/
theorem pdegWritesDegree : Obligations.PdegWritesDegree := by
  intro rd rs1 s
  refine ⟨_, rfl, fun hzero => ?_, fun d hd hhigh => ?_, completeOk_endsOk s _ _ _ rfl rfl,
    setReg_completeOk_onlyRegs s rd _ _ _, rfl, rfl⟩
  · rw [State.completeOk_reg, State.reg_setReg_same, hzero]
    rfl
  · have hlt : d < 64 := BitVec.lt_of_getLsbD hd
    rw [State.poly_completeOk, State.poly, State.reg_setReg_same, State.poly, deg_of_highest_bit _ d hd hhigh,
      BitVec.toNat_ofInt]
    omega

/-- PGCD completes with d, s and t (40_ring.md R231). -/
theorem exec_pgcd (rd rd2 rd3 rs1 rs2 : Reg) (s : State) :
    exec (.pgcd rd rd2 rd3 rs1 rs2) s =
      .next (((((s.useCaches CacheUse.division).setPoly rd (egcd (s.poly rs1) (s.poly rs2)).1).setPoly rd2
        (egcd (s.poly rs1) (s.poly rs2)).2.1).setPoly rd3 (egcd (s.poly rs1) (s.poly rs2)).2.2).completeOk 0x14
          false) := rfl

/-- Settles O24: the three results fit in a word. -/
theorem pgcdWritesBezout : Obligations.PgcdWritesBezout := by
  intro rd rd2 rd3 rs1 rs2 s h12 h13 h23
  obtain ⟨hd, hs, ht⟩ := egcd_lt_two_pow (s.poly rs1) (s.poly rs2) (s.poly_lt rs1) (s.poly_lt rs2)
  refine ⟨_, exec_pgcd rd rd2 rd3 rs1 rs2 s, ?_, completeOk_endsOk s _ _ _ rfl rfl, ?_, rfl, rfl, rfl⟩
  · simp only [State.poly_completeOk]
    rw [State.poly_setPoly_same _ _ _ ht, State.poly_setPoly_ne _ _ _ _ h23, State.poly_setPoly_same _ _ _ hs,
      State.poly_setPoly_ne _ _ _ _ h13, State.poly_setPoly_ne _ _ _ _ h12, State.poly_setPoly_same _ _ _ hd]
  · exact (((((OnlyRegs.refl _ s).useCaches _).setPoly rd (by simp) _).setPoly rd2 (by simp) _).setPoly rd3
      (by simp) _).completeOk _ _

/-- PPOW ends with EOVF when the power has degree above 63 and else completes with it (40_ring.md R241). -/
theorem exec_ppow (rd rs1 rs2 : Reg) (s : State) :
    exec (.ppow rd rs1 rs2) s =
      if s.poly rs1 ≠ 0 ∧ 1 ≤ s.poly rs2 ∧ deg (s.poly rs1) * s.poly rs2 > 63 then .next (s.completeError 0x15 .eovf)
      else .next ((s.setPoly rd (powSq clmul 1 (s.poly rs1) (s.poly rs2))).completeOk 0x15 false) := rfl

/-- Settles O25: squaring gives the n-fold product as long as that fits in a word. -/
theorem ppowRaisesOrOverflows : Obligations.PpowRaisesOrOverflows := by
  intro rd rs1 rs2 s
  rw [exec_ppow]
  refine ⟨fun hfit => ?_, fun ⟨hbase, hover⟩ => ?_⟩
  · obtain ⟨hpower, hlt⟩ := powSq_clmul (s.poly rs1) (s.poly rs2) (s.poly_lt rs1) hfit
    rw [if_neg fun ⟨hbase, _, hover⟩ => hfit.elim hbase (not_le.mpr hover), hpower]
    exact ⟨_, rfl, setPoly_completeOk s rd _ 0x15 (hpower ▸ hlt)⟩
  · have hpos : 1 ≤ s.poly rs2 := Nat.one_le_iff_ne_zero.mpr fun h0 => by simp [h0] at hover
    rw [if_pos ⟨hbase, hpos, hover⟩]
    exact ⟨_, rfl, completeError_ends s 0x15 .eovf⟩

end Sys2Proof.Machine

/-! ### The residue ring of a modulus

The model holds a field element as a number below 2^K. `residue m` reads a number as an element of GF(2)[X]/(m), which is a
ring for any modulus, reducible ones included (41_field.md R254); below 2^K no two numbers share a residue. -/

namespace Sys2Proof.Machine

/-- The class of the polynomial `a` modulo `m`. -/
noncomputable def residue (m a : Nat) : AdjoinRoot (toPoly m) := AdjoinRoot.mk (toPoly m) (toPoly a)

@[simp] theorem residue_zero (m : Nat) : residue m 0 = 0 := by rw [residue, toPoly_zero, map_zero]

@[simp] theorem residue_one (m : Nat) : residue m 1 = 1 := by rw [residue, toPoly_one, map_one]

@[simp] theorem residue_xor (m a b : Nat) : residue m (a ^^^ b) = residue m a + residue m b := by
  rw [residue, toPoly_xor, map_add, residue, residue]

/-- Two numbers share a residue exactly when the modulus divides their difference. -/
theorem residue_eq_iff (m a b : Nat) : residue m a = residue m b ↔ toPoly m ∣ toPoly (a ^^^ b) := by
  rw [residue, residue, AdjoinRoot.mk_eq_mk, toPoly_xor, CharTwo.sub_eq_add]

/-- `m` is a modulus that FCFG accepts for K = `k` (41_field.md R255). -/
structure IsModulus (k m : Nat) : Prop where
  one_le : 1 ≤ k
  le_sixteen : k ≤ 16
  deg_eq : deg m = k

/-- The modulus of a valid field context is one. -/
theorem FieldOk.isModulus {f : FieldCtx} (h : FieldOk f) (hfv : f.fv = true) : IsModulus f.degree f.mod := by
  obtain ⟨_, hvalid⟩ := h
  obtain ⟨h1, h16, hdeg, _⟩ := hvalid hfv
  exact ⟨h1, h16, hdeg⟩

namespace IsModulus

variable {k m : Nat}

theorem ne_zero (h : IsModulus k m) : m ≠ 0 := (ne_zero_and_log2_of_deg m k h.deg_eq).1

theorem lt_word (h : IsModulus k m) {a : Nat} (ha : a < 2 ^ k) : a < 2 ^ 64 :=
  ha.trans_le (Nat.pow_le_pow_right (by decide) (h.le_sixteen.trans (by decide)))

theorem one_lt (h : IsModulus k m) : 1 < 2 ^ k := Nat.one_lt_two_pow (Nat.one_le_iff_ne_zero.mp h.one_le)

theorem bit_lt (h : IsModulus k m) (b : Bool) : b.toNat < 2 ^ k := b.toNat_le.trans_lt h.one_lt

/-- A product is an element whatever its factors are (41_field.md R260). -/
theorem fmul_lt (h : IsModulus k m) (a b : Nat) : fmul m a b < 2 ^ k := by
  rw [← deg_lt_iff, ← h.deg_eq]
  exact deg_pdivmod_snd_lt _ m h.ne_zero

/-- `fmul` is the product of the residue ring (41_field.md R260). -/
theorem residue_fmul (h : IsModulus k m) (a : Nat) {b : Nat} (hb : b < 2 ^ k) :
    residue m (fmul m a b) = residue m a * residue m b := by
  have hsum := congrArg (AdjoinRoot.mk (toPoly m)) (toPoly_pdivmod_sum (clmul a b) m h.ne_zero)
  rw [map_add, map_mul, AdjoinRoot.mk_self, zero_mul, zero_add, toPoly_clmul a b (h.lt_word hb), map_mul] at hsum
  exact hsum

/-- An element is its residue. -/
theorem eq_of_residue_eq (h : IsModulus k m) {a b : Nat} (ha : a < 2 ^ k) (hb : b < 2 ^ k)
    (heq : residue m a = residue m b) : a = b := by
  have hlt := (deg_lt_iff _ _).mpr (Nat.xor_lt_two_pow ha hb)
  rw [residue_eq_iff] at heq
  by_contra hne
  have hle := deg_le_of_dvd m (a ^^^ b) (Nat.xor_ne_zero_iff.mpr hne) heq
  rw [h.deg_eq] at hle
  omega

end IsModulus

end Sys2Proof.Machine

/-! ### The inverse -/

namespace Sys2Proof.Machine

/-- A Bezout sum with gcd 1 makes its coefficient s an inverse, of degree below that of the modulus (41_field.md R265). -/
theorem IsModulus.inverse_of_bezoutSum {k m : Nat} (h : IsModulus k m) {a s t : Nat} (ha : a < 2 ^ k)
    (hsum : BezoutSum a m 1 s t) : s < 2 ^ k ∧ fmul m a s = 1 := by
  have hs : s < 2 ^ k := by
    have hdeg := hsum.deg_s
    have hone : deg 1 = 0 := rfl
    have ha' := (deg_lt_iff a k).mpr ha
    rw [h.deg_eq] at hdeg
    exact (deg_lt_iff s k).mp (by omega)
  refine ⟨hs, h.eq_of_residue_eq (h.fmul_lt a s) h.one_lt ?_⟩
  have hmk := congrArg (AdjoinRoot.mk (toPoly m)) hsum.sum
  rw [map_add, map_mul, map_mul, AdjoinRoot.mk_self, mul_zero, add_zero] at hmk
  rw [h.residue_fmul a hs, mul_comm]
  exact hmk.symm

/-- Only an element prime to the modulus has an inverse (41_field.md R265). -/
theorem IsModulus.gcd_eq_one_of_fmul_eq_one {k m : Nat} (h : IsModulus k m) {a v d s t : Nat} (hv : v < 2 ^ k)
    (hsum : BezoutSum a m d s t) (hone : fmul m a v = 1) : d = 1 := by
  obtain ⟨hda, hdm⟩ := hsum.dvd
  have hprod : residue m (clmul a v) = residue m 1 := by
    rw [residue, toPoly_clmul a v (h.lt_word hv), map_mul, ← hone, h.residue_fmul a hv]
    rfl
  rw [residue_eq_iff, toPoly_xor, toPoly_clmul a v (h.lt_word hv), toPoly_one] at hprod
  have hd1 : toPoly d ∣ 1 := (dvd_add_right (hda.mul_right _)).mp (hdm.trans hprod)
  apply toPoly_injective
  rw [toPoly_one]
  exact (monic_toPoly d (ne_zero_of_dvd d m h.ne_zero hdm)).eq_one_of_isUnit (isUnit_of_dvd_one hd1)

theorem finv_eq_some_iff (m a v : Nat) : finv m a = some v ↔ (egcd a m).1 = 1 ∧ (egcd a m).2.1 = v := by
  simp [finv]

theorem finv_eq_none_iff (m a : Nat) : finv m a = none ↔ (egcd a m).1 ≠ 1 := by
  simp [finv]

theorem IsModulus.lt_word_self {k m : Nat} (h : IsModulus k m) : m < 2 ^ 64 :=
  (bounds_of_deg m k h.deg_eq).2.trans_le
    (Nat.pow_le_pow_right (by decide) (Nat.succ_le_succ (h.le_sixteen.trans (by decide))))

/-- What `finv` answers is an inverse (41_field.md R265). -/
theorem IsModulus.finv_some {k m : Nat} (h : IsModulus k m) {a v : Nat} (ha : a < 2 ^ k) (hv : finv m a = some v) :
    v < 2 ^ k ∧ fmul m a v = 1 := by
  obtain ⟨hd, rfl⟩ := (finv_eq_some_iff m a v).mp hv
  have hsum := egcd_bezoutSum a m (h.lt_word ha) h.lt_word_self
  rw [hd] at hsum
  exact h.inverse_of_bezoutSum ha hsum

/-- Settles O43: `finv` reads the inverse from a Bezout sum, and fails where the gcd is not 1. -/
theorem finvIsTheInverse : Obligations.FinvIsTheInverse := by
  intro k m a h1 h16 hdeg ha
  have h : IsModulus k m := ⟨h1, h16, hdeg⟩
  refine ⟨fun v => h.finv_some ha, fun hnone v hv hone => ?_⟩
  have hsum := egcd_bezoutSum a m (h.lt_word ha) h.lt_word_self
  exact (finv_eq_none_iff m a).mp hnone (h.gcd_eq_one_of_fmul_eq_one hv hsum hone)

end Sys2Proof.Machine

/-! ### Powers in the field -/

namespace Sys2Proof.Machine

namespace IsModulus

variable {k m : Nat}

theorem fieldPower_lt (h : IsModulus k m) (x n : Nat) : fieldPower m x n < 2 ^ k := by
  cases n with
  | zero => exact h.one_lt
  | succ n => exact h.fmul_lt _ _

theorem residue_fieldPower (h : IsModulus k m) {x : Nat} (hx : x < 2 ^ k) (n : Nat) :
    residue m (fieldPower m x n) = residue m x ^ n := by
  induction n with
  | zero => exact residue_one m
  | succ n ih => rw [fieldPower, h.residue_fmul _ hx, ih, pow_succ]

/-- Squaring stays among the elements and computes the power of the residue ring (40_ring.md R240). -/
theorem powSqRec_fmul (h : IsModulus k m) (fuel : Nat) {x n : Nat} (hx : x < 2 ^ k) (hfuel : n < 2 ^ fuel) :
    powSqRec (fmul m) 1 fuel x n < 2 ^ k ∧ residue m (powSqRec (fmul m) 1 fuel x n) = residue m x ^ n := by
  induction fuel generalizing x n with
  | zero =>
    obtain rfl : n = 0 := by omega
    exact ⟨h.one_lt, residue_one m⟩
  | succ fuel ih =>
    by_cases h0 : n = 0
    · rw [powSqRec, if_pos h0, h0, pow_zero]
      exact ⟨h.one_lt, residue_one m⟩
    by_cases h1 : n = 1
    · rw [powSqRec, if_neg h0, if_pos h1, h1, pow_one]
      exact ⟨hx, rfl⟩
    have hpower (j : Nat) (hj : j < 2 ^ fuel) : powSqRec (fmul m) 1 fuel (fmul m x x) j < 2 ^ k ∧
        residue m (powSqRec (fmul m) 1 fuel (fmul m x x) j) = residue m x ^ (2 * j) := by
      obtain ⟨hlt, hres⟩ := ih (h.fmul_lt x x) hj
      exact ⟨hlt, by rw [hres, h.residue_fmul x hx, ← sq, pow_mul]⟩
    rw [powSqRec, if_neg h0, if_neg h1]
    split
    next heven =>
      obtain ⟨hlt, hres⟩ := hpower (n / 2) (by omega)
      exact ⟨hlt, by rw [hres, show 2 * (n / 2) = n by omega]⟩
    next hodd =>
      obtain ⟨hlt, hres⟩ := hpower ((n - 1) / 2) (by omega)
      refine ⟨h.fmul_lt _ _, ?_⟩
      rw [h.residue_fmul x hlt, hres, ← pow_succ', show 2 * ((n - 1) / 2) + 1 = n by omega]

/-- Squaring gives the n-fold product (40_ring.md R240). -/
theorem powSq_fmul (h : IsModulus k m) {x : Nat} (hx : x < 2 ^ k) (n : Nat) :
    powSq (fmul m) 1 x n = fieldPower m x n := by
  obtain ⟨hlt, hres⟩ := h.powSqRec_fmul _ hx (Nat.lt_log2_self (n := n))
  exact h.eq_of_residue_eq hlt (h.fieldPower_lt x n) (hres.trans (h.residue_fieldPower hx n).symm)

end IsModulus

end Sys2Proof.Machine

/-! ### Values of bit polynomials -/

namespace Sys2Proof.Machine

theorem lowPoly_succ (a n : Nat) :
    lowPoly a (n + 1) = lowPoly a n + Polynomial.monomial n ((a.testBit n).toNat : ZMod 2) :=
  Finset.sum_range_succ _ _

/-- The value at `x` of a bit at place `n`, in the residue ring. -/
theorem aeval_bit (m x n : Nat) (b : Bool) :
    Polynomial.aeval (residue m x) (Polynomial.monomial n ((b.toNat : Nat) : ZMod 2)) =
      residue m b.toNat * residue m x ^ n := by
  cases b <;> simp

namespace IsModulus

variable {k m : Nat}

theorem fevalFrom_lt (h : IsModulus k m) (p x n : Nat) {r : Nat} (hr : r < 2 ^ k) : fevalFrom m p x n r < 2 ^ k := by
  induction n generalizing r with
  | zero => exact hr
  | succ n ih => exact ih (Nat.xor_lt_two_pow (h.fmul_lt r x) (h.bit_lt _))

theorem feval_lt (h : IsModulus k m) (p x : Nat) : feval m p x < 2 ^ k := h.fevalFrom_lt p x _ (Nat.two_pow_pos k)

/-- The Horner loop adds the value of the bits still to come (41_field.md R300). -/
theorem residue_fevalFrom (h : IsModulus k m) (p : Nat) {x : Nat} (hx : x < 2 ^ k) (n r : Nat) :
    residue m (fevalFrom m p x n r) =
      residue m r * residue m x ^ n + Polynomial.aeval (residue m x) (lowPoly p n) := by
  induction n generalizing r with
  | zero => simp [fevalFrom, lowPoly]
  | succ n ih =>
    rw [fevalFrom, ih, residue_xor, h.residue_fmul r hx, lowPoly_succ, map_add, aeval_bit]
    ring

/-- `feval` is the value of the polynomial in the residue ring (41_field.md R300). -/
theorem residue_feval (h : IsModulus k m) (p : Nat) {x : Nat} (hx : x < 2 ^ k) :
    residue m (feval m p x) = Polynomial.aeval (residue m x) (toPoly p) := by
  have hfit : p < 2 ^ (deg p + 1).toNat := by
    have hdeg := neg_one_le_deg p
    exact (deg_lt_iff _ _).mp (by omega)
  rw [feval, h.residue_fevalFrom p hx, residue_zero, zero_mul, zero_add, lowPoly_eq_toPoly p _ hfit]

theorem sumOfPowers_lt (h : IsModulus k m) (p x n : Nat) : sumOfPowers m p x n < 2 ^ k := by
  induction n with
  | zero => exact Nat.two_pow_pos k
  | succ n ih =>
    rw [sumOfPowers]
    split
    · exact Nat.xor_lt_two_pow ih (h.fieldPower_lt x n)
    · exact ih

theorem residue_sumOfPowers (h : IsModulus k m) (p : Nat) {x : Nat} (hx : x < 2 ^ k) (n : Nat) :
    residue m (sumOfPowers m p x n) = Polynomial.aeval (residue m x) (lowPoly p n) := by
  induction n with
  | zero => simp [sumOfPowers, lowPoly]
  | succ n ih =>
    rw [sumOfPowers, lowPoly_succ, map_add, aeval_bit, ← ih]
    cases p.testBit n with
    | false => simp
    | true => simp [h.residue_fieldPower hx]

end IsModulus

/-- Settles O46: both are the value of the polynomial in the residue ring. -/
theorem fevalIsSumOfPowers : Obligations.FevalIsSumOfPowers := by
  intro k m p x h1 h16 hdeg hx hp
  have h : IsModulus k m := ⟨h1, h16, hdeg⟩
  apply h.eq_of_residue_eq (h.feval_lt p x) (h.sumOfPowers_lt p x 64)
  rw [h.residue_feval p hx, h.residue_sumOfPowers p hx, lowPoly_eq_toPoly p 64 hp]

end Sys2Proof.Machine

/-! ### The conjugate sequence -/

namespace Sys2Proof.Machine

/-- The first `n` values of x, x^2, x^4, ... (41_field.md R285). -/
def orbit (m x n : Nat) : List Nat := (List.range n).map (frobenius m x)

theorem orbit_succ (m x n : Nat) : orbit m x (n + 1) = orbit m x n ++ [frobenius m x n] := by
  simp [orbit, List.range_succ]

@[simp] theorem length_orbit (m x n : Nat) : (orbit m x n).length = n := by simp [orbit]

theorem getLastD_orbit_succ (m x n : Nat) : (orbit m x (n + 1)).getLastD 0 = frobenius m x n := by
  simp [orbit_succ]

/-- The orbit has no repetition exactly as long as each value is new. -/
theorem nodup_orbit_succ (m x n : Nat) :
    (orbit m x (n + 1)).Nodup ↔ (orbit m x n).Nodup ∧ frobenius m x n ∉ orbit m x n := by
  rw [orbit_succ, List.nodup_append_comm, List.singleton_append, List.nodup_cons, and_comm]

/-- A repetition stays one in a longer orbit. -/
theorem nodup_orbit_of_le {m x n n' : Nat} (hle : n ≤ n') (h : (orbit m x n').Nodup) : (orbit m x n).Nodup :=
  h.sublist ((List.range_sublist.mpr hle).map _)

/-- What the loop answers from an orbit without repetition, with fuel for 16 elements (41_field.md R285): the orbit up to
its first repetition, or overflow where the first 17 values are distinct. -/
theorem conjLoop_orbit (m x fuel n : Nat) (hlen : n + 1 + fuel = 17) (hfuel : fuel ≠ 0)
    (hnodup : (orbit m x (n + 1)).Nodup) :
    (∃ j, n ≤ j ∧ j < 16 ∧ conjLoop m fuel (orbit m x (n + 1)) = some (orbit m x (j + 1)) ∧
        (orbit m x (j + 1)).Nodup ∧ frobenius m x (j + 1) ∈ orbit m x (j + 1)) ∨
      (conjLoop m fuel (orbit m x (n + 1)) = none ∧ (orbit m x 17).Nodup) := by
  induction fuel generalizing n with
  | zero => exact absurd rfl hfuel
  | succ fuel ih =>
    have hnext : fmul m (frobenius m x n) (frobenius m x n) = frobenius m x (n + 1) := rfl
    rw [conjLoop, getLastD_orbit_succ, hnext, length_orbit]
    by_cases hmem : frobenius m x (n + 1) ∈ orbit m x (n + 1)
    · exact .inl ⟨n, le_refl n, by omega, if_pos hmem, hnodup, hmem⟩
    have hnodup' := (nodup_orbit_succ m x (n + 1)).mpr ⟨hnodup, hmem⟩
    rw [if_neg hmem]
    by_cases hfull : n + 1 = 16
    · obtain rfl : n = 15 := by omega
      exact .inr ⟨if_pos rfl, hnodup'⟩
    · rw [if_neg hfull, ← orbit_succ]
      rcases ih (n + 1) (by omega) (by omega) hnodup' with ⟨j, hj, hrest⟩ | hnone
      · exact .inl ⟨j, by omega, hrest⟩
      · exact .inr hnone

theorem conjSeq_cases (m x : Nat) :
    (∃ n, n < 16 ∧ conjSeq m x = some (orbit m x (n + 1)) ∧ (orbit m x (n + 1)).Nodup ∧
        frobenius m x (n + 1) ∈ orbit m x (n + 1)) ∨
      (conjSeq m x = none ∧ (orbit m x 17).Nodup) := by
  rcases conjLoop_orbit m x 16 0 rfl (by decide) (List.nodup_singleton x) with ⟨n, _, hrest⟩ | hnone
  · exact .inl ⟨n, hrest⟩
  · exact .inr hnone

/-- Settles O44: the loop extends the orbit until a value repeats. -/
theorem conjSeqIsTheFrobeniusOrbit : Obligations.ConjSeqIsTheFrobeniusOrbit := by
  intro m x
  rcases conjSeq_cases m x with ⟨n, hn, hseq, hnodup, hmem⟩ | ⟨hnone, hnodup⟩
  · have hrepeat : ¬(orbit m x 17).Nodup := fun h => by
      have hlonger := nodup_orbit_of_le (show n + 2 ≤ 17 by omega) h
      exact ((nodup_orbit_succ m x (n + 1)).mp hlonger).2 hmem
    refine ⟨fun seq h => ?_, iff_of_false (by simp [hseq]) hrepeat⟩
    obtain rfl := Option.some.inj (hseq.symm.trans h)
    rw [length_orbit]
    exact ⟨by omega, by omega, rfl, hnodup, hmem⟩
  · exact ⟨fun seq h => by simp [hnone] at h, iff_of_true hnone hnodup⟩

theorem IsModulus.frobenius_lt {k m : Nat} (h : IsModulus k m) {x : Nat} (hx : x < 2 ^ k) (e : Nat) :
    frobenius m x e < 2 ^ k := by
  cases e with
  | zero => exact hx
  | succ e => exact h.fmul_lt _ _

/-- A conjugate sequence is an orbit of at most 16 values. -/
theorem exists_orbit_of_conjSeq {m x : Nat} {cs : List Nat} (hcs : conjSeq m x = some cs) :
    ∃ n, n < 16 ∧ cs = orbit m x (n + 1) := by
  rcases conjSeq_cases m x with ⟨n, hn, hseq, _⟩ | ⟨hnone, _⟩
  · exact ⟨n, hn, Option.some.inj (hcs.symm.trans hseq)⟩
  · simp [hnone] at hcs

/-- The conjugates of an element are elements. -/
theorem IsModulus.conjSeq_lt {k m : Nat} (h : IsModulus k m) {x : Nat} (hx : x < 2 ^ k) {cs : List Nat}
    (hcs : conjSeq m x = some cs) : ∀ c ∈ cs, c < 2 ^ k := by
  obtain ⟨n, _, rfl⟩ := exists_orbit_of_conjSeq hcs
  intro c hc
  obtain ⟨e, _, rfl⟩ := List.mem_map.mp hc
  exact h.frobenius_lt hx e

/-- An element is one of its conjugates. -/
theorem mem_of_conjSeq {m x : Nat} {cs : List Nat} (hcs : conjSeq m x = some cs) : x ∈ cs := by
  obtain ⟨n, _, rfl⟩ := exists_orbit_of_conjSeq hcs
  exact List.mem_map.mpr ⟨0, by simp, rfl⟩

end Sys2Proof.Machine

/-! ### The product over the conjugates -/

namespace Sys2Proof.Machine

theorem minpolyCoeffs_concat (m : Nat) (cs : List Nat) (c : Nat) :
    minpolyCoeffs m (cs ++ [c]) = mulLinear m (minpolyCoeffs m cs) c :=
  List.foldl_concat ..

theorem productAt_concat (m : Nat) (cs : List Nat) (c y : Nat) :
    productAt m (cs ++ [c]) y = fmul m (productAt m cs y) (y ^^^ c) :=
  List.foldl_concat ..

/-- Multiplication by X + c shifts the highest coefficient up and adds nothing to it (41_field.md R291). -/
theorem mulLinear_concat (m : Nat) (p : List Nat) (a c : Nat) :
    ∃ q, q.length = p.length + 1 ∧ mulLinear m (p ++ [a]) c = q ++ [a] := by
  refine ⟨List.zipWith (· ^^^ ·) ((p ++ [a]).map fun b => fmul m b c) (0 :: p), by simp, ?_⟩
  rw [mulLinear, ← List.cons_append, List.zipWith_append (by simp)]
  simp

/-- The product is monic, of degree the number of its factors (41_field.md R291). -/
theorem minpolyCoeffs_monic (m : Nat) (cs : List Nat) : ∃ q, q.length = cs.length ∧ minpolyCoeffs m cs = q ++ [1] := by
  induction cs using List.reverseRecOn with
  | nil => exact ⟨[], rfl, rfl⟩
  | append_singleton cs c ih =>
    obtain ⟨q, hlen, hq⟩ := ih
    obtain ⟨q', hlen', hq'⟩ := mulLinear_concat m q 1 c
    refine ⟨q', by simp [hlen', hlen], ?_⟩
    rw [minpolyCoeffs_concat, hq, hq']

theorem binaryCoeffs_iff (p : List Nat) : binaryCoeffs p = true ↔ ∀ a ∈ p, a = 0 ∨ a = 1 := by
  simp [binaryCoeffs]

theorem binaryCoeffs_cons (a : Nat) (p : List Nat) :
    binaryCoeffs (a :: p) = true ↔ (a = 0 ∨ a = 1) ∧ binaryCoeffs p = true := by
  simp [binaryCoeffs]

/-- A packed list of bits that ends in 1 has its highest bit there. -/
theorem packCoeffs_bounds (q : List Nat) (h : binaryCoeffs (q ++ [1]) = true) :
    2 ^ q.length ≤ packCoeffs (q ++ [1]) ∧ packCoeffs (q ++ [1]) < 2 ^ (q.length + 1) := by
  induction q with
  | nil => decide
  | cons a q ih =>
    rw [List.cons_append, binaryCoeffs_cons] at h
    obtain ⟨ha, hq⟩ := h
    obtain ⟨hlo, hhi⟩ := ih hq
    rw [List.cons_append, packCoeffs, List.length_cons, pow_succ 2 (q.length + 1)]
    rw [pow_succ] at hhi ⊢
    omega

theorem deg_of_bounds (a n : Nat) (hlo : 2 ^ n ≤ a) (hhi : a < 2 ^ (n + 1)) : deg a = n := by
  have hlt := (deg_lt_iff a (n + 1)).mpr hhi
  have hge : ¬deg a < n := fun h => absurd ((deg_lt_iff a n).mp h) (not_lt.mpr hlo)
  omega

/-- A packed list is its first bit and the rest one place up. -/
theorem toPoly_bit_add_two_mul (b : Bool) (p : Nat) :
    toPoly (b.toNat + 2 * p) = toPoly b.toNat + toPoly p * Polynomial.X := by
  have hxor : b.toNat + 2 * p = b.toNat ^^^ p <<< 1 := by
    refine Nat.eq_of_testBit_eq fun i => ?_
    have hb := b.toNat_lt
    rw [Nat.testBit_xor, Nat.shiftLeft_eq, pow_one, mul_comm p 2]
    cases i with
    | zero => cases b <;> simp [Nat.testBit_zero, Nat.add_mul_mod_self_left]
    | succ i =>
      rw [Nat.testBit_succ, Nat.testBit_succ, Nat.testBit_succ, Nat.add_mul_div_left _ _ (by decide),
        Nat.div_eq_of_lt hb]
      simp
  rw [hxor, toPoly_xor, toPoly_shiftLeft, pow_one]

/-- The sum of two coefficient lists of elements has elements as coefficients. -/
theorem forall_mem_zipWith_xor_lt {k : Nat} {p q : List Nat} (hp : ∀ a ∈ p, a < 2 ^ k) (hq : ∀ a ∈ q, a < 2 ^ k) :
    ∀ a ∈ List.zipWith (· ^^^ ·) p q, a < 2 ^ k := by
  intro a ha
  obtain ⟨i, hi, rfl⟩ := List.mem_iff_getElem.mp ha
  rw [List.getElem_zipWith]
  exact Nat.xor_lt_two_pow (hp _ (List.getElem_mem _)) (hq _ (List.getElem_mem _))

namespace IsModulus

variable {k m : Nat}

theorem coeffsAt_lt (h : IsModulus k m) {p : List Nat} (hp : ∀ a ∈ p, a < 2 ^ k) (y : Nat) :
    coeffsAt m p y < 2 ^ k := by
  cases p with
  | nil => exact Nat.two_pow_pos k
  | cons a p => exact Nat.xor_lt_two_pow (h.fmul_lt _ _) (hp a (List.mem_cons_self ..))

/-- The value of a coefficient list, one coefficient at a time. -/
theorem residue_coeffsAt_cons (h : IsModulus k m) (a : Nat) (p : List Nat) {y : Nat} (hy : y < 2 ^ k) :
    residue m (coeffsAt m (a :: p) y) = residue m (coeffsAt m p y) * residue m y + residue m a := by
  rw [coeffsAt, List.foldr_cons, residue_xor, h.residue_fmul _ hy]
  rfl

/-- The value of the list that `mulLinear` zips together, from any coefficient `b` carried in from below. -/
theorem residue_coeffsAt_zip (h : IsModulus k m) (p : List Nat) (b : Nat) {c y : Nat} (hc : c < 2 ^ k)
    (hy : y < 2 ^ k) :
    residue m (coeffsAt m (List.zipWith (· ^^^ ·) (p.map (fun a => fmul m a c) ++ [0]) (b :: p)) y) =
      residue m (coeffsAt m p y) * (residue m y + residue m c) + residue m b := by
  induction p generalizing b with
  | nil =>
    rw [List.map_nil, List.nil_append, List.zipWith_cons_cons, h.residue_coeffsAt_cons _ _ hy]
    simp [coeffsAt]
  | cons a p ih =>
    rw [List.map_cons, List.cons_append, List.zipWith_cons_cons, h.residue_coeffsAt_cons _ _ hy, ih,
      h.residue_coeffsAt_cons _ _ hy, residue_xor, h.residue_fmul a hc]
    ring

/-- `mulLinear` multiplies the value at `y` by y + c (41_field.md R291). -/
theorem residue_coeffsAt_mulLinear (h : IsModulus k m) (p : List Nat) {c y : Nat} (hc : c < 2 ^ k) (hy : y < 2 ^ k) :
    residue m (coeffsAt m (mulLinear m p c) y) = residue m (coeffsAt m p y) * (residue m y + residue m c) := by
  rw [mulLinear, h.residue_coeffsAt_zip p 0 hc hy, residue_zero, add_zero]

theorem productAt_lt (h : IsModulus k m) (cs : List Nat) (y : Nat) : productAt m cs y < 2 ^ k := by
  induction cs using List.reverseRecOn with
  | nil => exact h.one_lt
  | append_singleton cs c _ =>
    rw [productAt_concat]
    exact h.fmul_lt _ _

/-- The product of y + c in the residue ring. -/
theorem residue_productAt (h : IsModulus k m) {cs : List Nat} (hcs : ∀ c ∈ cs, c < 2 ^ k) {y : Nat} (hy : y < 2 ^ k) :
    residue m (productAt m cs y) = (cs.map fun c => residue m y + residue m c).prod := by
  induction cs using List.reverseRecOn with
  | nil => exact residue_one m
  | append_singleton cs c ih =>
    obtain ⟨hcs, hc⟩ := List.forall_mem_append.mp hcs
    have hlt : y ^^^ c < 2 ^ k := Nat.xor_lt_two_pow hy (hc c (List.mem_singleton_self c))
    rw [productAt_concat, h.residue_fmul _ hlt, ih hcs]
    simp

/-- The coefficients are elements. -/
theorem minpolyCoeffs_lt (h : IsModulus k m) (cs : List Nat) : ∀ a ∈ minpolyCoeffs m cs, a < 2 ^ k := by
  induction cs using List.reverseRecOn with
  | nil => simpa [minpolyCoeffs] using h.one_lt
  | append_singleton cs c ih =>
    rw [minpolyCoeffs_concat, mulLinear]
    refine forall_mem_zipWith_xor_lt ?_ ?_
    · rintro a ha
      rcases List.mem_append.mp ha with ha | ha
      · obtain ⟨b, _, rfl⟩ := List.mem_map.mp ha
        exact h.fmul_lt b c
      · rw [List.mem_singleton.mp ha]
        exact Nat.two_pow_pos k
    · exact List.forall_mem_cons.mpr ⟨Nat.two_pow_pos k, ih⟩

/-- The value of a list of bits is that of its packed polynomial. -/
theorem residue_coeffsAt_binary (h : IsModulus k m) (p : List Nat) (hp : binaryCoeffs p = true) {y : Nat}
    (hy : y < 2 ^ k) :
    residue m (coeffsAt m p y) = Polynomial.aeval (residue m y) (toPoly (packCoeffs p)) := by
  induction p with
  | nil => simp [coeffsAt, packCoeffs]
  | cons a p ih =>
    obtain ⟨ha, hrest⟩ := (binaryCoeffs_cons a p).mp hp
    obtain ⟨b, rfl⟩ : ∃ b : Bool, b.toNat = a := ha.elim (fun h => ⟨false, h.symm⟩) fun h => ⟨true, h.symm⟩
    rw [h.residue_coeffsAt_cons _ _ hy, ih hrest, packCoeffs, toPoly_bit_add_two_mul, map_add, map_mul,
      Polynomial.aeval_X]
    cases b <;> simp [add_comm]

/-- The value of the product of X + c at `y` is the product of y + c (41_field.md R291). -/
theorem coeffsAt_minpolyCoeffs (h : IsModulus k m) {cs : List Nat} (hcs : ∀ c ∈ cs, c < 2 ^ k) {y : Nat}
    (hy : y < 2 ^ k) : coeffsAt m (minpolyCoeffs m cs) y = productAt m cs y := by
  apply h.eq_of_residue_eq (h.coeffsAt_lt (h.minpolyCoeffs_lt cs) y) (h.productAt_lt cs y)
  induction cs using List.reverseRecOn with
  | nil =>
    rw [minpolyCoeffs, List.foldl_nil, h.residue_coeffsAt_cons _ _ hy]
    simp [coeffsAt, productAt]
  | append_singleton cs c ih =>
    obtain ⟨hcs, hc⟩ := List.forall_mem_append.mp hcs
    have hc := hc c (List.mem_singleton_self c)
    rw [minpolyCoeffs_concat, h.residue_coeffsAt_mulLinear _ hc hy, ih hcs, productAt_concat,
      h.residue_fmul _ (Nat.xor_lt_two_pow hy hc), residue_xor]

/-- One factor of the product over the conjugates of `x` is 0 at `x` (41_field.md R300). -/
theorem feval_minpoly (h : IsModulus k m) {x : Nat} (hx : x < 2 ^ k) {cs : List Nat} (hcs : conjSeq m x = some cs)
    (hbin : binaryCoeffs (minpolyCoeffs m cs) = true) : feval m (packCoeffs (minpolyCoeffs m cs)) x = 0 := by
  apply h.eq_of_residue_eq (h.feval_lt _ x) (Nat.two_pow_pos k)
  rw [h.residue_feval _ hx, ← h.residue_coeffsAt_binary _ hbin hx,
    h.coeffsAt_minpolyCoeffs (h.conjSeq_lt hx hcs) hx, h.residue_productAt (h.conjSeq_lt hx hcs) hx, residue_zero]
  refine List.prod_eq_zero (List.mem_map.mpr ⟨x, mem_of_conjSeq hcs, ?_⟩)
  rw [← residue_xor, Nat.xor_self, residue_zero]

end IsModulus

/-- Settles O45: the coefficients are monic by their highest column, and their value is a product in the residue ring. -/
theorem minpolyIsTheMonicProduct : Obligations.MinpolyIsTheMonicProduct := by
  intro m cs
  obtain ⟨q, hlen, hq⟩ := minpolyCoeffs_monic m cs
  refine ⟨by simp [hq, hlen], by simp [hq], fun hbin => ?_, fun k h1 h16 hdeg => ?_⟩
  · rw [hq] at hbin ⊢
    obtain ⟨hlo, hhi⟩ := packCoeffs_bounds q hbin
    rw [← hlen]
    exact deg_of_bounds _ _ hlo hhi
  · have h : IsModulus k m := ⟨h1, h16, hdeg⟩
    exact ⟨fun y hy hcs => h.coeffsAt_minpolyCoeffs hcs hy, fun x hx hcs hbin => h.feval_minpoly hx hcs hbin⟩

end Sys2Proof.Machine

/-! ### The field configuration -/

namespace Sys2Proof.Machine

/-- The field context and the caches are no part of what a configuration has to keep (41_field.md R255). -/
theorem configure_frame (s : State) (op : BitVec 8) (good : Bool) (k m : Nat) :
    SameRegsBut [] s (s.configure op good k m) ∧ SameBanksBut [] s (s.configure op good k m) ∧
      SamePivots s (s.configure op good k m) ∧ SameConj s (s.configure op good k m) ∧
      SameHost s (s.configure op good k m) := by
  cases good <;>
    exact ⟨fun _ _ => rfl, fun _ _ => ⟨rfl, fun _ => rfl⟩, ⟨rfl, fun _ => rfl⟩, ⟨rfl, fun _ => rfl⟩, rfl, rfl, rfl, rfl⟩

theorem configure_good (s : State) (op : BitVec 8) (k m : Nat) :
    (s.configure op true k m).field = configuredField k m ∧ (s.configure op true k m).caches = Caches.empty ∧
      EndsOk op false s (s.configure op true k m) :=
  ⟨rfl, rfl, completeOk_endsOk s _ op false rfl rfl⟩

theorem configure_bad (s : State) (op : BitVec 8) (k m : Nat) :
    (s.configure op false k m).field = FieldCtx.invalid ∧ (s.configure op false k m).caches = Caches.empty ∧
      EndsError op 0x05 s (s.configure op false k m) :=
  ⟨rfl, rfl, completeError_endsError s _ op .econfig rfl rfl⟩

theorem exec_fcfg (rs1 rs2 : Reg) (s : State) :
    exec (.fcfg rs1 rs2) s =
      .next (s.configure 0x20 (1 ≤ s.poly rs1 ∧ s.poly rs1 ≤ 16 ∧ deg (s.poly rs2) = s.poly rs1) (s.poly rs1)
        (s.poly rs2)) := rfl

theorem exec_fcfgD (rs1 : Reg) (s : State) :
    exec (.fcfgD rs1) s =
      .next (s.configure 0x20 (1 ≤ s.poly rs1 ∧ s.poly rs1 ≤ 16) (s.poly rs1) (defaultModulus (s.poly rs1))) := rfl

/-- The field context of an accepted configuration holds its values without loss: K in 5 bits, the others in words. -/
theorem configuredField_values {k m : Nat} (h : IsModulus k m) :
    (configuredField k m).fv = true ∧ (configuredField k m).k.toNat = k ∧
      (configuredField k m).modulus.toNat = m ∧ (configuredField k m).order.toNat = 2 ^ k ∧
      (configuredField k m).prim.toNat = (pdivmod 2 m).2 := by
  obtain ⟨_, hvalid⟩ := fieldOk_configuredField k m h.one_le h.le_sixteen h.deg_eq
  obtain ⟨_, _, hdeg, horder, hprim⟩ := hvalid rfl
  have h16 := h.le_sixteen
  have hk : (configuredField k m).degree = k := by
    rw [FieldCtx.degree, configuredField, BitVec.toNat_ofNat]
    omega
  have hm : (configuredField k m).mod = m := by
    rw [FieldCtx.mod, configuredField, BitVec.toNat_ofNat, Nat.mod_eq_of_lt h.lt_word_self]
  rw [hk] at horder
  rw [hm] at hprim
  exact ⟨rfl, hk, hm, horder, hprim⟩

theorem isModulus_defaultModulus (k : Nat) (h1 : 1 ≤ k) (h16 : k ≤ 16) : IsModulus k (defaultModulus k) :=
  ⟨h1, h16, deg_defaultModulus k h1 h16⟩

/-- `defaultModulus` is the table of 10_state.md R65, whose first entry is that of K = 1. -/
theorem defaultModulus_table (k : Nat) (h1 : 1 ≤ k) (h16 : k ≤ 16) :
    [0x3, 0x7, 0xB, 0x13, 0x25, 0x43, 0x89, 0x11D, 0x211, 0x409, 0x805, 0x1053, 0x201B, 0x4443, 0x8003,
      0x1100B][k - 1]? = some (defaultModulus k) := by
  interval_cases k <;> rfl

/-- Settles O30: the check passes, and the context of the configuration holds the values exactly. -/
theorem fcfgConfiguresTheField : Obligations.FcfgConfiguresTheField := by
  refine ⟨fun rs1 rs2 s h1 h16 hdeg => ⟨_, exec_fcfg rs1 rs2 s, ?_⟩, fun rs1 s h1 h16 => ⟨_, exec_fcfgD rs1 s, ?_⟩⟩
  · obtain ⟨hfv, hk, hm, horder, hprim⟩ := configuredField_values ⟨h1, h16, hdeg⟩
    obtain ⟨hfield, hcaches, hends⟩ := configure_good s 0x20 (s.poly rs1) (s.poly rs2)
    rw [decide_eq_true ⟨h1, h16, hdeg⟩, hfield]
    exact ⟨hfv, hk, BitVec.eq_of_toNat_eq hm, horder, hprim, hcaches, hends, configure_frame s _ _ _ _⟩
  · have hmod := isModulus_defaultModulus (s.poly rs1) h1 h16
    obtain ⟨hfv, hk, hm, horder, hprim⟩ := configuredField_values hmod
    obtain ⟨hfield, hcaches, hends⟩ := configure_good s 0x20 (s.poly rs1) (defaultModulus (s.poly rs1))
    rw [decide_eq_true ⟨h1, h16⟩, hfield, hm]
    exact ⟨hfv, hk, defaultModulus_table _ h1 h16, hmod.deg_eq, horder, hprim, hcaches, hends,
      configure_frame s _ _ _ _⟩

/-- Settles O31: the check fails. -/
theorem badConfigurationLeavesNoField : Obligations.BadConfigurationLeavesNoField := by
  refine ⟨fun rs1 rs2 s hbad => ⟨_, exec_fcfg rs1 rs2 s, ?_⟩, fun rs1 s hbad => ⟨_, exec_fcfgD rs1 s, ?_⟩⟩
  all_goals
    rw [decide_eq_false (by omega)]
    obtain ⟨hfield, hcaches, hends⟩ := configure_bad s 0x20 (s.poly rs1) _
    exact ⟨hfield, hcaches, hends, configure_frame s _ _ _ _⟩

end Sys2Proof.Machine

/-! ### The operand check of the field commands -/

namespace Sys2Proof.Machine

/-- A command that reads field elements first checks exactly those (41_field.md R251, R252). -/
theorem exec_eq_withElements (i : Instr) (s : State) (h : elementOperands i ≠ []) :
    ∃ body, exec i s = s.withElements (BitVec.ofNat 8 i.opcode) ((elementOperands i).map s.poly) body := by
  cases i with
  | fadd | fmul | finv | fdiv | fpow | flog | flogP | fconj | fminp | feval => exact ⟨_, rfl⟩
  | _ => exact absurd rfl h

/-- Settles O32: without a field the check ends the command. -/
theorem fieldCommandsNeedAField : Obligations.FieldCommandsNeedAField := by
  intro i s hi hfv
  obtain ⟨body, hexec⟩ := exec_eq_withElements i s hi
  rw [hexec, withElements_noField s _ _ _ hfv]
  exact ⟨_, rfl, completeError_ends s _ .enofield⟩

/-- Settles O33: an operand out of range ends the command. -/
theorem outOfRangeElementIsRejected : Obligations.OutOfRangeElementIsRejected := by
  intro i s r hr hfv hge
  obtain ⟨body, hexec⟩ := exec_eq_withElements i s (List.ne_nil_of_mem hr)
  rw [hexec, withElements_outOfRange s _ _ _ hfv (s.poly r) (List.mem_map_of_mem hr) hge]
  exact ⟨_, rfl, completeError_ends s _ .erange⟩

/-- The check passes for one element operand. -/
theorem withElements_one (s : State) (op : BitVec 8) (r : Reg) (body : Result) (hfv : s.field.fv = true)
    (hr : s.poly r < 2 ^ s.field.degree) : s.withElements op [s.poly r] body = body :=
  withElements_ok s op _ body hfv (by simpa using hr)

/-- The check passes for two element operands. -/
theorem withElements_two (s : State) (op : BitVec 8) (r r' : Reg) (body : Result) (hfv : s.field.fv = true)
    (hr : s.poly r < 2 ^ s.field.degree) (hr' : s.poly r' < 2 ^ s.field.degree) :
    s.withElements op [s.poly r, s.poly r'] body = body :=
  withElements_ok s op _ body hfv (by simpa using ⟨hr, hr'⟩)

end Sys2Proof.Machine

/-! ### The arithmetic commands of the field -/

namespace Sys2Proof.Machine

/-- A field command that computed with the caches of `u` writes one register and completes. -/
theorem useCaches_setPoly_ends (s : State) (u : CacheUse) (rd : Reg) (a : Nat) (op : BitVec 8) :
    (((s.useCaches u).setPoly rd a).completeOk op false).reg rd = BitVec.ofNat 64 a ∧
      EndsOk op false s (((s.useCaches u).setPoly rd a).completeOk op false) ∧
      OnlyRegs [rd] s (((s.useCaches u).setPoly rd a).completeOk op false) := by
  refine ⟨?_, completeOk_endsOk s _ _ _ rfl rfl, ?_⟩
  · rw [State.completeOk_reg, State.setPoly_eq, State.reg_setReg_same]
  · exact (((OnlyRegs.refl _ s).useCaches u).setPoly rd (List.mem_singleton_self rd) a).completeOk op false

/-- A result that fits in a word is written exactly. -/
theorem useCaches_setPoly_poly (s : State) (u : CacheUse) (rd : Reg) (op : BitVec 8) {a : Nat} (ha : a < 2 ^ 64) :
    (((s.useCaches u).setPoly rd a).completeOk op false).poly rd = a :=
  State.poly_setPoly_same _ rd a ha

/-- A field command that fails after its operand check writes nothing but the caches. -/
theorem useCaches_completeError_ends (s : State) (u : CacheUse) (op : BitVec 8) (e : ErrorCode) :
    EndsError op e.code s ((s.useCaches u).completeError op e) ∧ OnlyRegs [] s ((s.useCaches u).completeError op e) :=
  ⟨completeError_endsError s _ op e rfl rfl, (completeError_onlyRegs (s.useCaches u) op e).1⟩

/-- Settles O34: the sum of two elements is one. -/
theorem faddAddsElements : Obligations.FaddAddsElements := by
  intro rd rs1 rs2 s hfv h1 h2
  refine ⟨_, withElements_two s 0x21 rs1 rs2 _ hfv h1 h2, ?_, ?_, completeOk_endsOk s _ _ _ rfl rfl,
    setReg_completeOk_onlyRegs s rd _ _ _, rfl, rfl⟩
  · rw [State.completeOk_reg, State.reg_setReg_same]
  · rw [State.poly_completeOk, State.poly, State.reg_setReg_same, BitVec.toNat_xor]
    exact Nat.xor_lt_two_pow h1 h2

/-- The ring product of two elements fits in a word, as they have at most 16 bits each. -/
theorem IsModulus.clmul_lt {k m : Nat} (h : IsModulus k m) {a b : Nat} (ha : a < 2 ^ k) (hb : b < 2 ^ k) :
    clmul a b < 2 ^ 64 := by
  have hle := deg_clmul_le a b (h.lt_word hb)
  have h16 := h.le_sixteen
  rw [← deg_lt_iff] at ha hb
  exact (deg_lt_iff _ 64).mp (by omega)

/-- Settles O35: `fmul` is the remainder of a division in which the quotient fits in a word. -/
theorem fmulMultipliesModulo : Obligations.FmulMultipliesModulo := by
  intro rd rs1 rs2 s hok hfv h1 h2
  have h := FieldOk.isModulus hok hfv
  have hlt := h.fmul_lt (s.poly rs1) (s.poly rs2)
  obtain ⟨_, hends⟩ := useCaches_setPoly_ends s .multiply rd (fmul s.field.mod (s.poly rs1) (s.poly rs2)) 0x22
  obtain ⟨hquot, _⟩ := pdivmod_lt_two_pow _ s.field.mod 64 (h.clmul_lt h1 h2) h.ne_zero
  obtain ⟨hsum, _⟩ := pdivmodIsDivision _ s.field.mod (h.clmul_lt h1 h2) h.lt_word_self h.ne_zero
  refine ⟨_, withElements_two s 0x22 rs1 rs2 _ hfv h1 h2, ?_⟩
  rw [useCaches_setPoly_poly s _ rd _ (h.lt_word hlt)]
  exact ⟨rfl, hlt, ⟨_, hquot, hsum⟩, hends⟩

/-- Settles O36, by what `finv` answers. -/
theorem finvInvertsOrFails : Obligations.FinvInvertsOrFails := by
  intro rd rs1 s hfv h1
  refine ⟨fun v hv => ⟨_, (withElements_one s 0x23 rs1 _ hfv h1).trans (by rw [hv]), ?_⟩,
    fun hnone => ⟨_, (withElements_one s 0x23 rs1 _ hfv h1).trans (by rw [hnone]), ?_⟩⟩
  · exact useCaches_setPoly_ends s .inverse rd v 0x23
  · exact useCaches_completeError_ends s .inverse 0x23 .edivzero

/-- Settles O37, by what `finv` answers for the divisor. -/
theorem fdivDividesOrFails : Obligations.FdivDividesOrFails := by
  intro rd rs1 rs2 s hfv h1 h2
  refine ⟨fun v hv => ⟨_, (withElements_two s 0x24 rs1 rs2 _ hfv h1 h2).trans (by rw [hv]), ?_⟩,
    fun hnone => ⟨_, (withElements_two s 0x24 rs1 rs2 _ hfv h1 h2).trans (by rw [hnone]), ?_⟩⟩
  · exact useCaches_setPoly_ends s .inverse rd (fmul s.field.mod (s.poly rs1) v) 0x24
  · exact useCaches_completeError_ends s .inverse 0x24 .edivzero

/-! `fpow` by the sign of the exponent (41_field.md R270). -/

theorem fpow_of_nonneg (m x : Nat) (e : Int) (he : 0 ≤ e) : fpow m x e = some (powSq (fmul m) 1 x e.natAbs) := by
  rw [fpow, if_neg (not_lt.mpr he), show e.toNat = e.natAbs by omega]

theorem fpow_of_neg (m x : Nat) (e : Int) (he : e < 0) :
    fpow m x e = (finv m x).map fun v => powSq (fmul m) 1 v e.natAbs := if_pos he

/-- FPOW after its operand check, where `fpow` answers the n-fold product of an element. -/
theorem exec_fpow_of_some (rd rs1 rs2 : Reg) (s : State) (h : IsModulus s.field.degree s.field.mod)
    (hfv : s.field.fv = true) (h1 : s.poly rs1 < 2 ^ s.field.degree) {x n : Nat} (hx : x < 2 ^ s.field.degree)
    (hpow : fpow s.field.mod (s.poly rs1) (s.reg rs2).toInt = some (powSq (fmul s.field.mod) 1 x n)) :
    ∃ t, exec (.fpow rd rs1 rs2) s = .next t ∧ t.poly rd = fieldPower s.field.mod x n ∧ EndsOk 0x25 false s t ∧
      OnlyRegs [rd] s t := by
  rw [h.powSq_fmul hx] at hpow
  obtain ⟨_, hends⟩ := useCaches_setPoly_ends s .inverse rd (fieldPower s.field.mod x n) 0x25
  refine ⟨_, (withElements_one s 0x25 rs1 _ hfv h1).trans (by rw [State.signed, hpow]), ?_, hends⟩
  exact useCaches_setPoly_poly s _ rd _ (h.lt_word (h.fieldPower_lt x n))

/-- Settles O38, by the sign of the exponent and what `finv` answers. -/
theorem fpowRaisesOrFails : Obligations.FpowRaisesOrFails := by
  intro rd rs1 rs2 s hok hfv h1
  have h := FieldOk.isModulus hok hfv
  refine ⟨fun he => ?_, fun he v hv => ?_, fun he hnone => ?_⟩
  · exact exec_fpow_of_some rd rs1 rs2 s h hfv h1 h1 (fpow_of_nonneg _ _ _ he)
  · obtain ⟨hlt, _⟩ := h.finv_some h1 hv
    exact exec_fpow_of_some rd rs1 rs2 s h hfv h1 hlt (by rw [fpow_of_neg _ _ _ he, hv, Option.map_some])
  · have hpow : fpow s.field.mod (s.poly rs1) (s.reg rs2).toInt = none := by
      rw [fpow_of_neg _ _ _ he, hnone, Option.map_none]
    refine ⟨_, (withElements_one s 0x25 rs1 _ hfv h1).trans (by rw [State.signed, hpow]), ?_⟩
    exact useCaches_completeError_ends s .inverse 0x25 .edivzero

/-- Settles O42: the Horner value is an element, and so fits in a word. -/
theorem fevalEvaluatesAtElement : Obligations.FevalEvaluatesAtElement := by
  intro rd rs1 rs2 s hok hfv h2
  have h := FieldOk.isModulus hok hfv
  have hlt := h.feval_lt (s.poly rs1) (s.poly rs2)
  obtain ⟨_, hends⟩ := useCaches_setPoly_ends s .multiply rd (feval s.field.mod (s.poly rs1) (s.poly rs2)) 0x29
  refine ⟨_, withElements_one s 0x29 rs2 _ hfv h2, ?_⟩
  rw [useCaches_setPoly_poly s _ rd _ (h.lt_word hlt)]
  exact ⟨rfl, hlt, hends⟩

end Sys2Proof.Machine

/-! ### The logarithm commands -/

namespace Sys2Proof.Machine

/-- The search finds the exponent when it passes no other before it (41_field.md R280). -/
theorem flogFrom_eq_some (m x base n i e : Nat) (hie : i ≤ e) (hen : e < i + n)
    (hpow : fpow m base (Int.ofNat e) = some x) (hleast : ∀ j, j < e → fpow m base (Int.ofNat j) ≠ some x) :
    flogFrom m x base n i = some e := by
  induction n generalizing i with
  | zero => omega
  | succ n ih =>
    rw [flogFrom]
    rcases hie.eq_or_lt with rfl | hlt
    · exact if_pos hpow
    · rw [if_neg (hleast i hlt)]
      exact ih (i + 1) hlt (by omega)

theorem flogFrom_eq_none (m x base n i : Nat) (hno : ∀ j, j < i + n → fpow m base (Int.ofNat j) ≠ some x) :
    flogFrom m x base n i = none := by
  induction n generalizing i with
  | zero => rfl
  | succ n ih =>
    rw [flogFrom, if_neg (hno i (by omega))]
    exact ih (i + 1) fun j hj => hno j (by omega)

/-- An exponent below 2^K fits in a word, as K has 5 bits. -/
theorem FieldCtx.lt_word_of_lt_order (f : FieldCtx) {e : Nat} (he : e < 2 ^ f.degree) : e < 2 ^ 64 :=
  he.trans_le (Nat.pow_le_pow_right (by decide) (f.k.isLt.le.trans (by decide)))

theorem logarithm_of_some (s : State) (rd : Reg) (x base e : Nat)
    (h : flog s.field.mod s.field.degree x base = some e) :
    s.logarithm rd x base = ((s.useCaches CacheUse.logarithm).setPoly rd e).completeOk 0x26 false := by
  rw [State.logarithm, h]

theorem logarithm_of_none (s : State) (rd : Reg) (x base : Nat)
    (h : flog s.field.mod s.field.degree x base = none) :
    s.logarithm rd x base = (s.useCaches CacheUse.logarithm).completeOk 0x26 true := by
  rw [State.logarithm, h]

/-- FLOG and FLOG.P run the same search once their operands are checked; they differ in the base. -/
theorem exec_eq_logarithm (i : Instr) (rd rs1 : Reg) (s : State) (base : Nat) (hfv : s.field.fv = true)
    (h1 : s.poly rs1 < 2 ^ s.field.degree)
    (hi : (∃ rs2, i = .flog rd rs1 rs2 ∧ base = s.poly rs2 ∧ base < 2 ^ s.field.degree) ∨
      (i = .flogP rd rs1 ∧ base = s.field.prim.toNat)) :
    exec i s = .next (s.logarithm rd (s.poly rs1) base) := by
  rcases hi with ⟨rs2, rfl, rfl, h2⟩ | ⟨rfl, rfl⟩
  · exact withElements_two s 0x26 rs1 rs2 _ hfv h1 h2
  · exact withElements_one s 0x26 rs1 _ hfv h1

/-- Settles O39: the ascending search stops at the least exponent. -/
theorem flogFindsLeastExponent : Obligations.FlogFindsLeastExponent := by
  intro i rd rs1 s base hfv h1 hi
  rw [exec_eq_logarithm i rd rs1 s base hfv h1 hi]
  refine ⟨fun e he hpow hleast => ?_, fun hno => ?_⟩
  · have hlog : flog s.field.mod s.field.degree (s.poly rs1) base = some e :=
      flogFrom_eq_some _ _ _ _ 0 e (Nat.zero_le e) (by omega) hpow hleast
    obtain ⟨_, hends⟩ := useCaches_setPoly_ends s .logarithm rd e 0x26
    rw [logarithm_of_some s rd _ _ e hlog]
    exact ⟨_, rfl, useCaches_setPoly_poly s _ rd _ (s.field.lt_word_of_lt_order he), hends⟩
  · have hlog : flog s.field.mod s.field.degree (s.poly rs1) base = none :=
      flogFrom_eq_none _ _ _ _ 0 (by simpa using hno)
    rw [logarithm_of_none s rd _ _ hlog]
    exact ⟨_, rfl, completeOk_endsOk s _ _ _ rfl rfl, ((OnlyRegs.refl [] s).useCaches _).completeOk _ _⟩

end Sys2Proof.Machine

/-! ### The conjugate and minimal-polynomial commands -/

namespace Sys2Proof.Machine

/-- CONJCNT and CONJ hold a list of at most 16 words exactly, with zeros beyond it (10_state.md R73). -/
theorem setConj_values (s : State) (seq : List Nat) (hlen : seq.length ≤ 16) (hseq : ∀ c ∈ seq, c < 2 ^ 64) :
    (s.setConj seq).conjCnt.toNat = seq.length ∧
      ∀ i : Fin 16, ((s.setConj seq).conj[i]).toNat = seq.getD i.val 0 := by
  refine ⟨?_, fun i => ?_⟩
  · rw [State.setConj, BitVec.toNat_ofNat]
    omega
  · have hentry : seq.getD i.val 0 < 2 ^ 64 := by
      rw [List.getD_eq_getElem?_getD]
      cases hi : seq[i.val]? with
      | none => exact Nat.two_pow_pos 64
      | some c => exact hseq c (List.mem_of_getElem? hi)
    simp only [State.setConj, Fin.getElem_fin, Vector.getElem_ofFn, BitVec.toNat_ofNat]
    exact Nat.mod_eq_of_lt hentry

/-- Settles O40: the orbit has at most 16 values, each an element. -/
theorem fconjListsTheOrbit : Obligations.FconjListsTheOrbit := by
  intro rs1 s hok hfv h1
  have h := FieldOk.isModulus hok hfv
  refine ⟨fun seq hseq => ⟨_, (withElements_one s 0x27 rs1 _ hfv h1).trans (by rw [hseq]), ?_⟩,
    fun hnone => ⟨_, (withElements_one s 0x27 rs1 _ hfv h1).trans (by rw [hnone]), ?_⟩⟩
  · obtain ⟨hcnt, hconj⟩ := setConj_values (s.useCaches .multiply) seq (conjSeq_length_le _ _ seq hseq)
      fun c hc => h.lt_word (h.conjSeq_lt h1 hseq c hc)
    exact ⟨hcnt, hconj, completeOk_endsOk s _ _ _ rfl rfl, fun _ _ => rfl, rfl, fun _ _ => ⟨rfl, fun _ => rfl⟩,
      ⟨rfl, fun _ => rfl⟩, rfl, rfl, rfl, rfl⟩
  · exact useCaches_completeError_ends s .multiply 0x27 .eovf

/-- Settles O41, by what `conjSeq` answers and the check of the coefficients. -/
theorem fminpBuildsTheProduct : Obligations.FminpBuildsTheProduct := by
  intro rd rs1 s hfv h1
  have hexec (body : Result) := withElements_one s 0x28 rs1 body hfv h1
  refine ⟨fun cs hcs hbits => ?_, fun hnone => ?_, fun cs hcs ⟨a, ha, hne0, hne1⟩ => ?_⟩
  · have hbin := (binaryCoeffs_iff _).mpr hbits
    refine ⟨_, (hexec _).trans (by rw [hcs]; exact if_pos hbin), ?_⟩
    exact useCaches_setPoly_ends s .multiply rd (packCoeffs (minpolyCoeffs s.field.mod cs)) 0x28
  · refine ⟨_, (hexec _).trans (by rw [hnone]), ?_⟩
    exact useCaches_completeError_ends s .multiply 0x28 .eovf
  · have hbin : ¬binaryCoeffs (minpolyCoeffs s.field.mod cs) = true := fun hbin =>
      ((binaryCoeffs_iff _).mp hbin a ha).elim hne0 hne1
    refine ⟨_, (hexec _).trans (by rw [hcs]; exact if_neg hbin), ?_⟩
    exact useCaches_completeError_ends s .multiply 0x28 .enotbin

end Sys2Proof.Machine


/-! ### Rows of a matrix

How each operation on a list of row words acts on row i. Rows beyond the list are 0, so that most of these facts need no
bound on i. -/

namespace Sys2Proof.Machine

theorem row_of_lt {A : List Nat} {i : Nat} (h : i < A.length) : row A i = A[i] := by simp [row, h]

theorem row_of_le {A : List Nat} {i : Nat} (h : A.length ≤ i) : row A i = 0 := by simp [row, h]

theorem row_mem {A : List Nat} {i : Nat} (h : i < A.length) : row A i ∈ A := row_of_lt h ▸ List.getElem_mem h

/-- Matrices with the same number of rows are equal when their rows are. -/
theorem ext_row {A B : List Nat} (hlen : A.length = B.length) (h : ∀ i, i < A.length → row A i = row B i) : A = B :=
  List.ext_getElem hlen fun i hA hB => by rw [← row_of_lt hA, ← row_of_lt hB, h i hA]

theorem row_map (g : Nat → Nat) (h0 : g 0 = 0) (A : List Nat) (i : Nat) : row (A.map g) i = g (row A i) := by
  rw [row, row, ← List.getD_map (f := g), h0]

theorem row_set (A : List Nat) (i a l : Nat) : row (A.set i a) l = if i = l ∧ i < A.length then a else row A l := by
  by_cases hil : i = l
  · subst hil
    by_cases h : i < A.length <;> simp [row, h]
  · simp [row, hil]

@[simp] theorem length_swapRows (A : List Nat) (i j : Nat) : (swapRows A i j).length = A.length := by simp [swapRows]

theorem row_swapRows {A : List Nat} {i j : Nat} (hi : i < A.length) (hj : j < A.length) (l : Nat) :
    row (swapRows A i j) l = row A (if l = i then j else if l = j then i else l) := by
  simp only [swapRows, row_set, List.length_set, hi, hj, and_true, eq_comm (b := l)]
  split_ifs with hlj hli hli
  · rw [← hlj, hli]
  · rfl
  · rfl
  · rfl

@[simp] theorem length_identityRows (k : Nat) : (identityRows k).length = k := by simp [identityRows]

theorem row_identityRows {k i : Nat} (h : i < k) : row (identityRows k) i = 1 <<< i := by
  simp [row, identityRows, h]

@[simp] theorem length_matmul2 (A B : List Nat) : (matmul2 A B).length = A.length := by simp [matmul2]

/-- Row r is XORed into every row the choice `S` names. -/
def addRow (A : List Nat) (r : Nat) (S : Nat → Bool) : List Nat :=
  A.mapIdx fun i a => if S i then a ^^^ row A r else a

@[simp] theorem length_addRow (A : List Nat) (r : Nat) (S : Nat → Bool) : (addRow A r S).length = A.length := by
  simp [addRow]

theorem row_addRow {A : List Nat} (r : Nat) (S : Nat → Bool) {i : Nat} (h : i < A.length) :
    row (addRow A r S) i = if S i then row A i ^^^ row A r else row A i := by
  rw [row_of_lt (by simpa using h), row_of_lt h]
  simp [addRow]

/-- Elimination XORs row r into the other rows with a 1 in column c (42_matrix.md R340). -/
theorem eliminate_eq_addRow (A : List Nat) (r c : Nat) :
    eliminate A r c = addRow A r fun i => decide (i ≠ r ∧ entry A i c = true) := by
  refine List.ext_getElem (by simp [eliminate]) fun i hA hB => ?_
  have hi : i < A.length := by simpa using hB
  simp [eliminate, addRow, entry, row_of_lt hi]

theorem row_eliminate (A : List Nat) (r c i : Nat) :
    row (eliminate A r c) i = if i ≠ r ∧ entry A i c = true then row A i ^^^ row A r else row A i := by
  by_cases hi : i < A.length
  · simp [eliminate_eq_addRow, row_addRow r _ hi]
  · have hlen : (eliminate A r c).length ≤ i := by simpa [eliminate] using hi
    simp [row_of_le hlen, entry, row_of_le (not_lt.mp hi)]

end Sys2Proof.Machine

/-! ### The leading column

`leadCol` is `lead` with the column count q in place of +∞, so that leads compare as numbers. -/

namespace Sys2Proof.Machine

/-- The leading column of a row, or q for none (42_matrix.md R340). -/
def leadCol (q a : Nat) : Nat := (lead q a).getD q

theorem leadFrom_cases (a n j : Nat) :
    (leadFrom a n j = none ∧ ∀ i, j ≤ i → i < j + n → a.testBit i = false) ∨
      ∃ c, leadFrom a n j = some c ∧ c < j + n ∧ a.testBit c = true ∧ ∀ i, j ≤ i → i < c → a.testBit i = false := by
  induction n generalizing j with
  | zero => exact .inl ⟨rfl, fun i _ _ => by omega⟩
  | succ n ih =>
    rw [leadFrom]
    cases hj : a.testBit j with
    | true => exact .inr ⟨j, rfl, by omega, hj, fun i _ _ => by omega⟩
    | false =>
      have extend (i : Nat) (hi : j ≤ i) (h : j + 1 ≤ i → a.testBit i = false) : a.testBit i = false :=
        hi.eq_or_lt.elim (fun h => h ▸ hj) h
      rcases ih (j + 1) with ⟨hnone, hzero⟩ | ⟨c, hsome, hlt, hbit, hzero⟩
      · exact .inl ⟨hnone, fun i hi hin => extend i hi fun h => hzero i h (by omega)⟩
      · exact .inr ⟨c, hsome, by omega, hbit, fun i hi hic => extend i hi fun h => hzero i h hic⟩

/-- Either every column is 0, or `lead` finds the first that is 1. -/
theorem lead_cases (q a : Nat) :
    (lead q a = none ∧ leadCol q a = q ∧ ∀ j, j < q → a.testBit j = false) ∨
      ∃ c, lead q a = some c ∧ leadCol q a = c ∧ c < q ∧ a.testBit c = true ∧ ∀ j, j < c → a.testBit j = false := by
  rcases leadFrom_cases a q 0 with ⟨hnone, hzero⟩ | ⟨c, hsome, hlt, hbit, hzero⟩
  · exact .inl ⟨hnone, by rw [leadCol, lead, hnone]; rfl, fun j hj => hzero j j.zero_le (by omega)⟩
  · exact .inr ⟨c, hsome, by rw [leadCol, lead, hsome]; rfl, by omega, hbit, fun j => hzero j j.zero_le⟩

theorem lead_eq (q a : Nat) : lead q a = if leadCol q a < q then some (leadCol q a) else none := by
  rcases lead_cases q a with ⟨hnone, hcol, _⟩ | ⟨c, hsome, hcol, hlt, _⟩
  · rw [hnone, hcol, if_neg (lt_irrefl q)]
  · rw [hsome, hcol, if_pos hlt]

theorem lead_eq_some_iff (q a c : Nat) : lead q a = some c ↔ leadCol q a = c ∧ c < q := by
  rw [lead_eq]
  split
  · rw [Option.some_inj]
    omega
  · simp only [reduceCtorEq, false_iff]
    omega

theorem leadCol_le (q a : Nat) : leadCol q a ≤ q := by
  rcases lead_cases q a with ⟨_, hcol, _⟩ | ⟨c, _, hcol, hlt, _⟩ <;> omega

theorem testBit_leadCol {q a : Nat} (h : leadCol q a < q) : a.testBit (leadCol q a) = true := by
  rcases lead_cases q a with ⟨_, hcol, _⟩ | ⟨c, _, hcol, _, hbit, _⟩
  · omega
  · rwa [hcol]

theorem testBit_of_lt_leadCol {q a j : Nat} (h : j < leadCol q a) : a.testBit j = false := by
  rcases lead_cases q a with ⟨_, hcol, hzero⟩ | ⟨c, _, hcol, _, _, hzero⟩ <;> exact hzero j (hcol ▸ h)

/-- The leading column is c or later exactly when the columns before c are 0. -/
theorem le_leadCol_iff {q c : Nat} (hc : c ≤ q) (a : Nat) :
    c ≤ leadCol q a ↔ ∀ j, j < c → a.testBit j = false := by
  refine ⟨fun h j hj => testBit_of_lt_leadCol (hj.trans_le h), fun h => ?_⟩
  by_contra hlt
  have hbit := testBit_leadCol (q := q) (a := a) (by omega)
  rw [h _ (by omega)] at hbit
  exact Bool.false_ne_true hbit

theorem leadCol_eq_iff {q c : Nat} (hc : c < q) (a : Nat) :
    leadCol q a = c ↔ a.testBit c = true ∧ ∀ j, j < c → a.testBit j = false := by
  rw [← le_leadCol_iff hc.le a]
  refine ⟨fun h => ⟨?_, h.ge⟩, fun ⟨hbit, hle⟩ => le_antisymm ?_ hle⟩
  · rw [← h]
    exact testBit_leadCol (h.trans_lt hc)
  · by_contra hlt
    rw [testBit_of_lt_leadCol (not_le.mp hlt)] at hbit
    exact Bool.false_ne_true hbit

@[simp] theorem leadCol_zero (q : Nat) : leadCol q 0 = q :=
  le_antisymm (leadCol_le q 0) ((le_leadCol_iff le_rfl 0).mpr fun j _ => Nat.zero_testBit j)

/-- A row of q columns is 0 exactly when it has no leading column. -/
theorem leadCol_eq_self_iff {q a : Nat} (ha : a < 2 ^ q) : leadCol q a = q ↔ a = 0 := by
  refine ⟨fun h => Nat.eq_of_testBit_eq fun j => ?_, fun h => h ▸ leadCol_zero q⟩
  rw [Nat.zero_testBit]
  rcases lt_or_ge j q with hj | hj
  · exact testBit_of_lt_leadCol (hj.trans_eq h.symm)
  · exact Nat.testBit_lt_two_pow (ha.trans_le (Nat.pow_le_pow_right (by decide) hj))

/-- The order of leads with +∞ greatest is the order of leading columns. -/
theorem leadLt_lead (q a b : Nat) : leadLt (lead q a) (lead q b) = decide (leadCol q a < leadCol q b) := by
  have ha := leadCol_le q a
  have hb := leadCol_le q b
  rw [lead_eq, lead_eq]
  split <;> split <;> simp [leadLt] <;> omega

/-- A row of later lead does not move the leading column. -/
theorem leadCol_xor {q a b : Nat} (h : leadCol q a < leadCol q b) : leadCol q (a ^^^ b) = leadCol q a := by
  have hq : leadCol q a < q := h.trans_le (leadCol_le q b)
  refine (leadCol_eq_iff hq _).mpr ⟨?_, fun j hj => ?_⟩
  · rw [Nat.testBit_xor, testBit_leadCol hq, testBit_of_lt_leadCol h]
    rfl
  · rw [Nat.testBit_xor, testBit_of_lt_leadCol hj, testBit_of_lt_leadCol (hj.trans h)]
    rfl

/-- The leading column of the first n columns. -/
theorem leadCol_mod (n k a : Nat) : leadCol n (a % 2 ^ n) = min n (leadCol (n + k) a) := by
  have hbit (j : Nat) (hj : j < n) : (a % 2 ^ n).testBit j = a.testBit j := by simp [Nat.testBit_mod_two_pow, hj]
  rcases lt_or_ge (leadCol (n + k) a) n with h | h
  · rw [min_eq_right h.le, leadCol_eq_iff h, hbit _ h]
    exact ⟨testBit_leadCol (by omega), fun j hj => (hbit j (hj.trans h)).trans (testBit_of_lt_leadCol hj)⟩
  · rw [min_eq_left h]
    refine le_antisymm (leadCol_le _ _) ((le_leadCol_iff le_rfl _).mpr fun j hj => ?_)
    rw [hbit j hj, testBit_of_lt_leadCol (hj.trans_le h)]

end Sys2Proof.Machine

/-! ### One turn of the reduction -/

namespace Sys2Proof.Machine

/-- Row s is the earliest of smallest lead among the rows from r on (42_matrix.md R340). -/
structure Selected (q : Nat) (A : List Nat) (r s : Nat) : Prop where
  le : r ≤ s
  lt : s < A.length
  least : ∀ i, r ≤ i → leadCol q (row A s) ≤ leadCol q (row A i)
  first : ∀ i, r ≤ i → i < s → leadCol q (row A s) < leadCol q (row A i)

theorem Selected.unique {q : Nat} {A : List Nat} {r s t : Nat} (hs : Selected q A r s) (ht : Selected q A r t) :
    s = t := by
  have hst := hs.least t ht.le
  have hts := ht.least s hs.le
  rcases lt_trichotomy s t with h | h | h
  · exact absurd (ht.first s hs.le h) (by omega)
  · exact h
  · exact absurd (hs.first t ht.le h) (by omega)

theorem selectFrom_selected (q : Nat) (A : List Nat) (r n i best : Nat) (hlen : i + n = A.length) (hri : r ≤ best)
    (hbest : best < i) (hleast : ∀ j, r ≤ j → j < i → leadCol q (row A best) ≤ leadCol q (row A j))
    (hfirst : ∀ j, r ≤ j → j < best → leadCol q (row A best) < leadCol q (row A j)) :
    Selected q A r (selectFrom q A n i best) := by
  induction n generalizing i best with
  | zero =>
    refine ⟨hri, by rw [selectFrom]; omega, fun j hj => ?_, hfirst⟩
    rcases lt_or_ge j i with h | h
    · exact hleast j hj h
    · rw [row_of_le (i := j) (by omega), leadCol_zero]
      exact leadCol_le _ _
  | succ n ih =>
    rw [selectFrom, leadLt_lead]
    simp only [decide_eq_true_eq]
    split_ifs with hlt
    · refine ih (i + 1) i (by omega) (by omega) (by omega) (fun j hj hji => ?_) fun j hj hji => ?_
      · rcases Nat.lt_succ_iff_lt_or_eq.mp hji with h | rfl
        · exact hlt.le.trans (hleast j hj h)
        · exact le_rfl
      · exact hlt.trans_le (hleast j hj hji)
    · refine ih (i + 1) best (by omega) hri (by omega) (fun j hj hji => ?_) hfirst
      rcases Nat.lt_succ_iff_lt_or_eq.mp hji with h | rfl
      · exact hleast j hj h
      · exact not_lt.mp hlt

theorem selectRow_selected (q : Nat) {A : List Nat} {r : Nat} (hr : r < A.length) :
    Selected q A r (selectRow q A r) :=
  selectFrom_selected q A r _ (r + 1) r (by omega) le_rfl (by omega)
    (fun j h1 h2 => by rw [show j = r by omega]) fun j h1 h2 => by omega

/-- What a turn does with the selected row s: it is swapped to row r, and its column, when it has one, is cleared in the
other rows. -/
theorem rrefStep_cases (q : Nat) {A : List Nat} {r : Nat} (hr : r < A.length) :
    ∃ s, Selected q A r s ∧
      ((leadCol q (row A s) = q ∧ rrefStep q A r = swapRows A r s) ∨
        (leadCol q (row A s) < q ∧
          rrefStep q A r = eliminate (swapRows A r s) r (leadCol q (row A s)))) := by
  have hsel := selectRow_selected q hr
  have hrow : row (swapRows A r (selectRow q A r)) r = row A (selectRow q A r) := by
    rw [row_swapRows hr hsel.lt, if_pos rfl]
  refine ⟨selectRow q A r, hsel, ?_⟩
  simp only [rrefStep, hrow]
  rcases lead_cases q (row A (selectRow q A r)) with ⟨hlead, hcol, _⟩ | ⟨c, hlead, hcol, hlt, _⟩
  · exact .inl ⟨hcol, by rw [hlead]⟩
  · exact .inr ⟨hcol.trans_lt hlt, by rw [hlead, hcol]⟩

end Sys2Proof.Machine


/-! ### The reduced row-echelon form -/

namespace Sys2Proof.Machine

/-- The first r rows are reduced: their leading columns come before those of all later rows, and are 0 in every other
row (42_matrix.md R340). The invariant of the loop of `rref`, before its turn at row r. -/
structure Echelon (q r : Nat) (A : List Nat) : Prop where
  leads : ∀ i j, i < r → i < j → leadCol q (row A i) < leadCol q (row A j) ∨ leadCol q (row A j) = q
  cleared : ∀ i j, i < r → j ≠ i → leadCol q (row A i) < q → entry A j (leadCol q (row A i)) = false

/-- Two rows that are not yet reduced may be swapped. -/
theorem Echelon.swap_rows {q r : Nat} {A : List Nat} (h : Echelon q r A) {s : Nat} (hr : r < A.length) (hrs : r ≤ s)
    (hs : s < A.length) : Echelon q r (swapRows A r s) := by
  have hrow := row_swapRows hr hs
  have hlow (i : Nat) (hi : i < r) : row (swapRows A r s) i = row A i := by
    rw [hrow, if_neg (by omega), if_neg (by omega)]
  refine ⟨fun i j hi hij => ?_, fun i j hi hji hlt => ?_⟩
  · rw [hlow i hi, hrow]
    exact h.leads i _ hi (by split_ifs <;> omega)
  · rw [hlow i hi] at hlt ⊢
    rw [entry, hrow]
    exact h.cleared i _ hi (by split_ifs <;> omega) hlt

/-- When the rows from r on are 0, row r is reduced as well. -/
theorem Echelon.succ_of_zero {q r : Nat} {A : List Nat} (h : Echelon q r A)
    (hzero : ∀ j, r ≤ j → leadCol q (row A j) = q) : Echelon q (r + 1) A := by
  refine ⟨fun i j hi hij => ?_, fun i j hi hji hlt => ?_⟩
  · rcases Nat.lt_succ_iff_lt_or_eq.mp hi with hir | rfl
    · exact h.leads i j hir hij
    · exact .inr (hzero j hij.le)
  · rcases Nat.lt_succ_iff_lt_or_eq.mp hi with hir | rfl
    · exact h.cleared i j hir hji hlt
    · exact absurd (hzero i le_rfl) hlt.ne

theorem row_eliminate_self (A : List Nat) (r c : Nat) : row (eliminate A r c) r = row A r := by
  rw [row_eliminate, if_neg (by simp)]

/-- Elimination at the lead of row r clears that column in the other rows. -/
theorem entry_eliminate_leadCol {q r j : Nat} {A : List Nat} (hlt : leadCol q (row A r) < q) (hj : j ≠ r) :
    entry (eliminate A r (leadCol q (row A r))) j (leadCol q (row A r)) = false := by
  rw [entry, row_eliminate]
  split_ifs with hbit
  · rw [Nat.testBit_xor, testBit_leadCol hlt, ← entry, hbit.2]
    rfl
  · rw [← entry]
    simpa [hj] using hbit

/-- A row that leads before row r keeps its lead. -/
theorem leadCol_row_eliminate {q r i : Nat} {A : List Nat} (c : Nat)
    (h : leadCol q (row A i) < leadCol q (row A r)) : leadCol q (row (eliminate A r c) i) = leadCol q (row A i) := by
  rw [row_eliminate]
  split_ifs
  · exact leadCol_xor h
  · rfl

/-- A row that does not lead before row r leads after it once its column is cleared. -/
theorem lt_leadCol_row_eliminate {q r j : Nat} {A : List Nat} (hlt : leadCol q (row A r) < q) (hj : j ≠ r)
    (hle : leadCol q (row A r) ≤ leadCol q (row A j)) :
    leadCol q (row A r) < leadCol q (row (eliminate A r (leadCol q (row A r))) j) := by
  refine (le_leadCol_iff (Nat.succ_le_of_lt hlt) _).mpr fun i hi => ?_
  rcases Nat.lt_succ_iff_lt_or_eq.mp hi with hic | rfl
  · have hji : (row A j).testBit i = false := testBit_of_lt_leadCol (hic.trans_le hle)
    rw [row_eliminate]
    split_ifs
    · rw [Nat.testBit_xor, hji, testBit_of_lt_leadCol hic]
      rfl
    · exact hji
  · exact entry_eliminate_leadCol hlt hj

/-- When row r has the smallest lead of the rows from r on, elimination reduces it and keeps the rows before reduced. -/
theorem Echelon.clear_column {q r : Nat} {A : List Nat} (h : Echelon q r A)
    (hleast : ∀ j, r ≤ j → leadCol q (row A r) ≤ leadCol q (row A j)) (hlt : leadCol q (row A r) < q) :
    Echelon q (r + 1) (eliminate A r (leadCol q (row A r))) := by
  have before (i : Nat) (hi : i < r) : leadCol q (row A i) < leadCol q (row A r) := by
    rcases h.leads i r hi hi with h | h <;> omega
  have lead_before (i : Nat) (hi : i < r) := leadCol_row_eliminate (leadCol q (row A r)) (before i hi)
  have lead_after (j : Nat) (hj : r < j) := lt_leadCol_row_eliminate hlt hj.ne' (hleast j hj.le)
  refine ⟨fun i j hi hij => ?_, fun i j hi hji hiq => ?_⟩
  · rcases Nat.lt_succ_iff_lt_or_eq.mp hi with hir | rfl
    · rw [lead_before i hir]
      rcases lt_trichotomy j r with hjr | rfl | hjr
      · rw [lead_before j hjr]
        exact h.leads i j hir hij
      · exact .inl (by rw [row_eliminate_self]; exact before i hir)
      · exact .inl ((before i hir).trans (lead_after j hjr))
    · rw [row_eliminate_self]
      exact .inl (lead_after j hij)
  · rcases Nat.lt_succ_iff_lt_or_eq.mp hi with hir | rfl
    · rw [lead_before i hir] at hiq ⊢
      have hj := h.cleared i j hir hji hiq
      rw [entry, row_eliminate]
      split_ifs
      · rw [Nat.testBit_xor, ← entry, hj, testBit_of_lt_leadCol (before i hir)]
        rfl
      · exact hj
    · rw [row_eliminate_self]
      exact entry_eliminate_leadCol hlt hji

@[simp] theorem length_rrefStep (q : Nat) (A : List Nat) (r : Nat) : (rrefStep q A r).length = A.length := by
  unfold rrefStep
  dsimp only
  split <;> simp [eliminate_eq_addRow]

@[simp] theorem length_rrefUpTo (q : Nat) (A : List Nat) (r : Nat) : (rrefUpTo q A r).length = A.length := by
  induction r with
  | zero => rfl
  | succ r ih => rw [rrefUpTo, length_rrefStep, ih]

@[simp] theorem length_rref (q : Nat) (A : List Nat) : (rref q A).length = A.length := length_rrefUpTo q A _

theorem Echelon.turn {q r : Nat} {A : List Nat} (h : Echelon q r A) (hr : r < A.length) :
    Echelon q (r + 1) (rrefStep q A r) := by
  obtain ⟨s, hsel, hstep⟩ := rrefStep_cases q hr
  have hswap := h.swap_rows hr hsel.le hsel.lt
  have hrow := row_swapRows hr hsel.lt
  have hpivot : row (swapRows A r s) r = row A s := by rw [hrow, if_pos rfl]
  have hleast (j : Nat) (hj : r ≤ j) : leadCol q (row A s) ≤ leadCol q (row (swapRows A r s) j) := by
    have hs := hsel.le
    rw [hrow]
    exact hsel.least _ (by split_ifs <;> omega)
  rcases hstep with ⟨hnone, heq⟩ | ⟨hlt, heq⟩ <;> rw [heq]
  · exact hswap.succ_of_zero fun j hj => le_antisymm (leadCol_le _ _) (hnone.ge.trans (hleast j hj))
  · rw [← hpivot] at hlt hleast ⊢
    exact hswap.clear_column hleast hlt

theorem echelon_rrefUpTo (q : Nat) (A : List Nat) (r : Nat) (hr : r ≤ A.length) : Echelon q r (rrefUpTo q A r) := by
  induction r with
  | zero => exact ⟨fun i j hi => by omega, fun i j hi => by omega⟩
  | succ r ih => exact (ih (by omega)).turn (by rw [length_rrefUpTo]; omega)

theorem echelon_rref (q : Nat) (A : List Nat) : Echelon q A.length (rref q A) :=
  echelon_rrefUpTo q A A.length le_rfl

end Sys2Proof.Machine

/-! ### Row operations

A turn of the reduction is a row operation: it XORs and permutes rows and treats all columns alike. So it commutes with
every XOR-preserving map of the row words: a product with a fixed matrix, the choice of some columns, a parity. That it
also has an inverse is all the statements about the transform need. -/

namespace Sys2Proof.Machine

/-- A map of row words that preserves XOR. -/
def XorHom (g : Nat → Nat) : Prop := ∀ a b, g (a ^^^ b) = g a ^^^ g b

theorem XorHom.zero {g : Nat → Nat} (h : XorHom g) : g 0 = 0 := by
  have h0 := h 0 0
  rwa [Nat.xor_self, Nat.xor_self] at h0

theorem xorHom_zero : XorHom fun _ => 0 := fun _ _ => (Nat.xor_self 0).symm

theorem xorHom_mod (n : Nat) : XorHom (· % 2 ^ n) := fun _ _ => Nat.xor_mod_two_pow

theorem xorHom_shiftRight (n : Nat) : XorHom (· >>> n) := fun _ _ => Nat.shiftRight_xor_distrib

/-- `f` is a row operation on matrices of k rows, and `f'` undoes it. -/
structure RowOp (k : Nat) (f f' : List Nat → List Nat) : Prop where
  length_eq : ∀ A, (f A).length = A.length
  length_undo : ∀ A, (f' A).length = A.length
  map_eq : ∀ g, XorHom g → ∀ A, (f A).map g = f (A.map g)
  left_inv : ∀ A, A.length = k → f' (f A) = A
  right_inv : ∀ A, A.length = k → f (f' A) = A

theorem RowOp.refl (k : Nat) : RowOp k id id :=
  ⟨fun _ => rfl, fun _ => rfl, fun _ _ _ => rfl, fun _ _ => rfl, fun _ _ => rfl⟩

theorem RowOp.trans {k : Nat} {f f' h h' : List Nat → List Nat} (hf : RowOp k f f') (hh : RowOp k h h') :
    RowOp k (h ∘ f) (f' ∘ h') where
  length_eq A := by rw [Function.comp, hh.length_eq, hf.length_eq]
  length_undo A := by rw [Function.comp, hf.length_undo, hh.length_undo]
  map_eq g hg A := by simp only [Function.comp, hh.map_eq g hg, hf.map_eq g hg]
  left_inv A hA := by
    simp only [Function.comp]
    rw [hh.left_inv _ (by rw [hf.length_eq, hA]), hf.left_inv A hA]
  right_inv A hA := by
    simp only [Function.comp]
    rw [hf.right_inv _ (by rw [hh.length_undo, hA]), hh.right_inv A hA]

/-- The inverse of a row operation commutes with the same maps. -/
theorem RowOp.map_undo {k : Nat} {f f' : List Nat → List Nat} (h : RowOp k f f') {g : Nat → Nat} (hg : XorHom g)
    {A : List Nat} (hA : A.length = k) : (f' A).map g = f' (A.map g) := by
  calc (f' A).map g = f' (f ((f' A).map g)) := (h.left_inv _ (by rw [List.length_map, h.length_undo, hA])).symm
    _ = f' ((f (f' A)).map g) := by rw [h.map_eq g hg]
    _ = f' (A.map g) := by rw [h.right_inv A hA]

theorem RowOp.injective {k : Nat} {f f' : List Nat → List Nat} (h : RowOp k f f')
    {A B : List Nat} (hA : A.length = k) (hB : B.length = k) (hAB : f A = f B) : A = B := by
  rw [← h.left_inv A hA, hAB, h.left_inv B hB]

/-- A row operation that undoes itself. -/
theorem RowOp.of_involutive {k : Nat} {f : List Nat → List Nat} (hlen : ∀ A, (f A).length = A.length)
    (hmap : ∀ g, XorHom g → ∀ A, (f A).map g = f (A.map g)) (hinv : ∀ A, A.length = k → f (f A) = A) : RowOp k f f :=
  ⟨hlen, hlen, hmap, hinv, hinv⟩

theorem map_swapRows {g : Nat → Nat} (hg : XorHom g) (A : List Nat) (i j : Nat) :
    (swapRows A i j).map g = swapRows (A.map g) i j := by
  simp only [swapRows, List.map_set, row_map g hg.zero]

theorem map_addRow {g : Nat → Nat} (hg : XorHom g) (A : List Nat) (r : Nat) (S : Nat → Bool) :
    (addRow A r S).map g = addRow (A.map g) r S := by
  refine ext_row (by simp) fun i hi => ?_
  have hiA : i < A.length := by simpa using hi
  rw [row_map g hg.zero, row_addRow r S hiA, row_addRow r S (by simpa using hiA), row_map g hg.zero,
    row_map g hg.zero, ← hg, ← apply_ite g]

theorem rowOp_swapRows {k i j : Nat} (hi : i < k) (hj : j < k) :
    RowOp k (swapRows · i j) (swapRows · i j) := by
  refine .of_involutive (fun A => length_swapRows A i j) (fun g hg A => map_swapRows hg A i j) fun A hA => ?_
  subst hA
  refine ext_row (by simp) fun l _ => ?_
  rw [row_swapRows (by simpa using hi) (by simpa using hj), row_swapRows hi hj]
  exact congrArg (row A) (by split_ifs <;> omega)

theorem rowOp_addRow {k r : Nat} {S : Nat → Bool} (hr : r < k) (hS : S r = false) :
    RowOp k (addRow · r S) (addRow · r S) := by
  refine .of_involutive (fun A => length_addRow A r S) (fun g hg A => map_addRow hg A r S) fun A hA => ?_
  subst hA
  refine ext_row (by simp) fun l hl => ?_
  have hlA : l < A.length := by simpa using hl
  rw [row_addRow r S (by simpa using hlA), row_addRow r S hlA, row_addRow r S hr, hS]
  cases S l <;> simp

theorem exists_rowOp_rrefStep (q : Nat) {A : List Nat} {r : Nat} (hr : r < A.length) :
    ∃ f f', RowOp A.length f f' ∧ rrefStep q A r = f A := by
  obtain ⟨s, hsel, ⟨_, heq⟩ | ⟨_, heq⟩⟩ := rrefStep_cases q hr
  · exact ⟨_, _, rowOp_swapRows hr hsel.lt, heq⟩
  · rw [eliminate_eq_addRow] at heq
    exact ⟨_, _, (rowOp_swapRows hr hsel.lt).trans (rowOp_addRow hr (by simp)), heq⟩

theorem exists_rowOp_rrefUpTo (q : Nat) (A : List Nat) (r : Nat) (hr : r ≤ A.length) :
    ∃ f f', RowOp A.length f f' ∧ rrefUpTo q A r = f A := by
  induction r with
  | zero => exact ⟨id, id, .refl _, rfl⟩
  | succ r ih =>
    obtain ⟨f, f', hf, heq⟩ := ih (by omega)
    obtain ⟨h, h', hh, hstep⟩ := exists_rowOp_rrefStep q (A := rrefUpTo q A r) (r := r) (by rw [length_rrefUpTo]; omega)
    rw [length_rrefUpTo] at hh
    exact ⟨_, _, hf.trans hh, by rw [rrefUpTo, hstep, heq]; rfl⟩

/-- `rref` is a row operation on its input (42_matrix.md R340). -/
theorem exists_rowOp_rref (q : Nat) (A : List Nat) : ∃ f f', RowOp A.length f f' ∧ rref q A = f A :=
  exists_rowOp_rrefUpTo q A A.length le_rfl

theorem forall_mem_lt_iff (n : Nat) (A : List Nat) : (∀ a ∈ A, a < 2 ^ n) ↔ A.map (· % 2 ^ n) = A := by
  conv_rhs => rhs; rw [← List.map_id A]
  rw [List.map_inj_left]
  exact forall₂_congr fun a _ => (Nat.mod_eq_iff_lt (Nat.two_pow_pos n).ne').symm

/-- A row operation keeps the number of columns. -/
theorem RowOp.lt_two_pow {k n : Nat} {f f' : List Nat → List Nat} (h : RowOp k f f') {A : List Nat}
    (hA : ∀ a ∈ A, a < 2 ^ n) : ∀ a ∈ f A, a < 2 ^ n := by
  rw [forall_mem_lt_iff] at hA ⊢
  rw [h.map_eq _ (xorHom_mod n), hA]

theorem row_lt {n : Nat} {A : List Nat} (hA : ∀ a ∈ A, a < 2 ^ n) (i : Nat) : row A i < 2 ^ n := by
  rcases lt_or_ge i A.length with hi | hi
  · exact hA _ (row_mem hi)
  · exact row_of_le hi ▸ Nat.two_pow_pos n

theorem rref_lt {q : Nat} {A : List Nat} (hA : ∀ a ∈ A, a < 2 ^ q) : ∀ a ∈ rref q A, a < 2 ^ q := by
  obtain ⟨f, f', hf, heq⟩ := exists_rowOp_rref q A
  exact heq ▸ hf.lt_two_pow hA

/-- Settles O52: the invariant of the loop after its last turn. -/
theorem rrefIsReducedEchelon : Obligations.RrefIsReducedEchelon := by
  intro q A hA
  have h := echelon_rref q A
  have zero_iff (i : Nat) : leadCol q (row (rref q A) i) = q ↔ row (rref q A) i = 0 :=
    leadCol_eq_self_iff (row_lt (rref_lt hA) i)
  have beyond (i : Nat) (hi : A.length ≤ i) : leadCol q (row (rref q A) i) = q :=
    (zero_iff i).mpr (row_of_le (by rwa [length_rref]))
  refine ⟨length_rref q A, fun i j hij hj hi => ?_, fun i j a b hij hi hj => ?_, fun i j c hij hi => ?_⟩
  · have hle := leadCol_le q (row (rref q A) j)
    rw [← zero_iff] at hi ⊢
    exact (h.leads i j (hij.trans hj) hij).resolve_left (by omega)
  · obtain ⟨rfl, ha⟩ := (lead_eq_some_iff _ _ _).mp hi
    obtain ⟨rfl, hb⟩ := (lead_eq_some_iff _ _ _).mp hj
    have hik : i < A.length := by
      by_contra hik
      exact ha.ne (beyond i (not_lt.mp hik))
    exact (h.leads i j hik hij).resolve_right hb.ne
  · obtain ⟨rfl, hc⟩ := (lead_eq_some_iff _ _ _).mp hi
    have hik : i < A.length := by
      by_contra hik
      exact hc.ne (beyond i (not_lt.mp hik))
    exact h.cleared i j hik hij.symm hc

end Sys2Proof.Machine


/-! ### The matrix product -/

namespace Sys2Proof.Machine

/-- A choice of rows is summed linearly in the choice (42_matrix.md R336). -/
theorem xorHom_xorRows (B : List Nat) (n : Nat) : XorHom (xorRows B · n) := by
  intro a b
  induction n with
  | zero => exact (Nat.xor_self 0).symm
  | succ n ih =>
    simp only [xorRows, Nat.testBit_xor] at ih ⊢
    rw [ih]
    cases a.testBit n <;> cases b.testBit n <;>
      simp [Nat.xor_assoc, Nat.xor_comm, Nat.xor_left_comm]

theorem xorRows_map {g : Nat → Nat} (hg : XorHom g) (B : List Nat) (a n : Nat) :
    xorRows (B.map g) a n = g (xorRows B a n) := by
  induction n with
  | zero => exact hg.zero.symm
  | succ n ih => rw [xorRows, xorRows, ih, row_map g hg.zero, ← hg, ← apply_ite g]

/-- The choice of one row. -/
theorem xorRows_one_shiftLeft (B : List Nat) (i n : Nat) :
    xorRows B (1 <<< i) n = if i < n then row B i else 0 := by
  induction n with
  | zero => rfl
  | succ n ih =>
    rw [xorRows, ih, Nat.one_shiftLeft, Nat.testBit_two_pow]
    rcases lt_trichotomy i n with h | rfl | h
    · simp [h, h.ne, Nat.lt_succ_of_lt h]
    · simp
    · simp [h.not_gt, h.ne', Nat.not_lt.mpr (Nat.succ_le_of_lt h)]

/-- A column of B with its only 1 in row i reads bit i of the choice. -/
theorem testBit_xorRows {B : List Nat} {i j n : Nat} (hcol : ∀ l, l < n → entry B l j = decide (l = i)) (a : Nat) :
    (xorRows B a n).testBit j = (decide (i < n) && a.testBit i) := by
  induction n with
  | zero => simp [xorRows]
  | succ n ih =>
    have hprev := ih fun l hl => hcol l (by omega)
    have hn : (row B n).testBit j = decide (n = i) := hcol n (by omega)
    have hbit : (xorRows B a (n + 1)).testBit j =
        ((decide (i < n) && a.testBit i) ^^ (a.testBit n && decide (n = i))) := by
      rw [xorRows, ← hprev, ← hn]
      cases a.testBit n <;> simp
    rw [hbit]
    rcases lt_trichotomy i n with h | rfl | h
    · simp [h, h.ne', Nat.lt_succ_of_lt h]
    · simp
    · simp [h.not_gt, h.ne, Nat.not_lt.mpr (Nat.succ_le_of_lt h)]

theorem row_matmul2 (A B : List Nat) (i : Nat) : row (matmul2 A B) i = xorRows B (row A i) B.length :=
  row_map _ (xorHom_xorRows B B.length).zero A i

theorem identity_matmul2 (B : List Nat) : matmul2 (identityRows B.length) B = B := by
  refine ext_row (by simp) fun i hi => ?_
  have hiB : i < B.length := by simpa using hi
  rw [row_matmul2, row_identityRows hiB, xorRows_one_shiftLeft, if_pos hiB]

theorem matmul2_assoc (A B C : List Nat) : matmul2 (matmul2 A B) C = matmul2 A (matmul2 B C) := by
  simp only [matmul2, List.map_map, List.length_map]
  refine List.map_congr_left fun a _ => ?_
  rw [xorRows_map (xorHom_xorRows C C.length)]
  rfl

/-- A row operation on a product acts on its left factor. -/
theorem RowOp.matmul2_left {k : Nat} {f f' : List Nat → List Nat} (h : RowOp k f f') (A B : List Nat) :
    matmul2 (f A) B = f (matmul2 A B) := h.map_eq _ (xorHom_xorRows B B.length) A

theorem RowOp.undo_matmul2_left {k : Nat} {f f' : List Nat → List Nat} (h : RowOp k f f') {A : List Nat}
    (hA : A.length = k) (B : List Nat) : matmul2 (f' A) B = f' (matmul2 A B) :=
  h.map_undo (xorHom_xorRows B B.length) hA

theorem identityRows_lt (k : Nat) : ∀ a ∈ identityRows k, a < 2 ^ k := by
  intro a ha
  obtain ⟨i, hi, rfl⟩ := List.mem_map.mp ha
  rw [Nat.one_shiftLeft]
  exact Nat.pow_lt_pow_right (by decide) (List.mem_range.mp hi)

end Sys2Proof.Machine

/-! ### The reduction with transform

The reduction of [M | I] is one row operation, which acts on both blocks alike: it takes M to the reduced matrix and the
identity to the transform. -/

namespace Sys2Proof.Machine

@[simp] theorem length_augment (n : Nat) (M : List Nat) : (augment n M).length = M.length := by simp [augment]

theorem row_augment (n : Nat) {M : List Nat} {i : Nat} (h : i < M.length) :
    row (augment n M) i = row M i ||| (1 <<< (n + i)) := by
  rw [row_of_lt (by simpa using h), row_of_lt h]
  simp [augment]

/-- The left block of [M | I]. -/
theorem augment_mod {n : Nat} {M : List Nat} (hM : ∀ a ∈ M, a < 2 ^ n) : (augment n M).map (· % 2 ^ n) = M := by
  refine ext_row (by simp) fun i hi => ?_
  have hiM : i < M.length := by simpa using hi
  rw [row_map _ (xorHom_mod n).zero, row_augment n hiM, Nat.or_mod_two_pow, Nat.mod_eq_of_lt (row_lt hM i),
    Nat.one_shiftLeft, Nat.pow_add, Nat.mul_mod_right, Nat.or_zero]

/-- The right block of [M | I]. -/
theorem augment_shiftRight {n : Nat} {M : List Nat} (hM : ∀ a ∈ M, a < 2 ^ n) :
    (augment n M).map (· >>> n) = identityRows M.length := by
  refine ext_row (by simp) fun i hi => ?_
  have hiM : i < M.length := by simpa using hi
  rw [row_map _ (xorHom_shiftRight n).zero, row_augment n hiM, row_identityRows hiM, Nat.shiftRight_or_distrib,
    Nat.shiftRight_eq_div_pow, Nat.div_eq_of_lt (row_lt hM i), Nat.zero_or, Nat.add_comm, Nat.shiftLeft_add,
    Nat.shiftLeft_shiftRight]

/-- What `xrref` returns as the result of one row operation (42_matrix.md R350). -/
theorem exists_rowOp_xrref {n : Nat} {M : List Nat} (hM : ∀ a ∈ M, a < 2 ^ n) :
    ∃ f f', RowOp M.length f f' ∧ (xrref n M).red = f M ∧ (xrref n M).P = f (identityRows M.length) := by
  obtain ⟨f, f', hf, heq⟩ := exists_rowOp_rref (n + M.length) (augment n M)
  rw [length_augment] at hf
  refine ⟨f, f', hf, ?_, ?_⟩
  · change (rref (n + M.length) (augment n M)).map (· % 2 ^ n) = f M
    rw [heq, hf.map_eq _ (xorHom_mod n), augment_mod hM]
  · change (rref (n + M.length) (augment n M)).map (· >>> n) = f (identityRows M.length)
    rw [heq, hf.map_eq _ (xorHom_shiftRight n), augment_shiftRight hM]

/-- Settles O53: the transform is the row operation on the identity, and its inverse is the undoing on the identity. -/
theorem transformIsInvertibleAndReduces : Obligations.TransformIsInvertibleAndReduces := by
  intro n M hM
  obtain ⟨f, f', hf, hred, hP⟩ := exists_rowOp_xrref hM
  have hI := length_identityRows M.length
  have hPlen : (xrref n M).P.length = M.length := by rw [hP, hf.length_eq, hI]
  have hQlen : (f' (identityRows M.length)).length = M.length := by rw [hf.length_undo, hI]
  have left_mul (B : List Nat) (hB : B.length = M.length) : matmul2 (xrref n M).P B = f B := by
    rw [hP, hf.matmul2_left, ← hB, identity_matmul2]
  refine ⟨by rw [left_mul M rfl, hred], hPlen, hP ▸ hf.lt_two_pow (identityRows_lt _),
    f' (identityRows M.length), hQlen, ?_, ?_, ?_⟩
  · have h := (forall_mem_lt_iff _ _).mp (identityRows_lt M.length)
    rw [forall_mem_lt_iff, hf.map_undo (xorHom_mod _) hI, h]
  · calc matmul2 (f' (identityRows M.length)) (xrref n M).P
        = f' (matmul2 (identityRows M.length) (xrref n M).P) := hf.undo_matmul2_left hI _
      _ = f' (xrref n M).P := by rw [← hPlen, identity_matmul2]
      _ = identityRows M.length := by rw [hP, hf.left_inv _ hI]
  · rw [left_mul _ hQlen, hf.right_inv _ hI]

/-! #### The reduced matrix is the reduction of M alone -/

/-- Rows that agree are swapped to no effect. -/
theorem swapRows_of_row_eq {A : List Nat} {i j : Nat} (hi : i < A.length) (hj : j < A.length)
    (h : row A i = row A j) : swapRows A i j = A := by
  refine ext_row (by simp) fun l _ => ?_
  rw [row_swapRows hi hj]
  split_ifs with h1 h2
  · rw [h1, h]
  · rw [h2, h]
  · rfl

theorem addRow_of_row_eq_zero {A : List Nat} {r : Nat} (h : row A r = 0) (S : Nat → Bool) : addRow A r S = A := by
  refine ext_row (by simp) fun i hi => ?_
  rw [row_addRow r S (by simpa using hi), h, Nat.xor_zero, ite_self]

/-- Elimination at one of the first n columns is elimination in the left block. -/
theorem map_eliminate_of_lt {n c : Nat} (hc : c < n) (A : List Nat) (r : Nat) :
    (eliminate A r c).map (· % 2 ^ n) = eliminate (A.map (· % 2 ^ n)) r c := by
  have hentry (i : Nat) : entry (A.map (· % 2 ^ n)) i c = entry A i c := by
    rw [entry, row_map _ (xorHom_mod n).zero, Nat.testBit_mod_two_pow]
    simp [hc, entry]
  rw [eliminate_eq_addRow, eliminate_eq_addRow, map_addRow (xorHom_mod n)]
  simp only [hentry]

/-- A turn of the augmented reduction is on the left block a turn of the reduction of that block alone: once the rest of
the left block is 0, both leave it as it is. -/
theorem map_rrefStep_mod (n m : Nat) {A : List Nat} {r : Nat} (hr : r < A.length) :
    (rrefStep (n + m) A r).map (· % 2 ^ n) = rrefStep n (A.map (· % 2 ^ n)) r := by
  set L := A.map (· % 2 ^ n) with hL
  have hrL : r < L.length := by rwa [hL, List.length_map]
  have hlead (i : Nat) : leadCol n (row L i) = min n (leadCol (n + m) (row A i)) := by
    rw [hL, row_map _ (xorHom_mod n).zero, leadCol_mod n m]
  obtain ⟨s, hs, hstep⟩ := rrefStep_cases (n + m) hr
  obtain ⟨t, ht, hstepL⟩ := rrefStep_cases n hrL
  have hsL : s < L.length := by rw [hL, List.length_map]; exact hs.lt
  have hswap : (swapRows A r s).map (· % 2 ^ n) = swapRows L r s := map_swapRows (xorHom_mod n) A r s
  rcases lt_or_ge (leadCol (n + m) (row A s)) n with hlt | hge
  · have hsel : Selected n L r s := by
      refine ⟨hs.le, hsL, fun i hi => ?_, fun i hi his => ?_⟩
      · have := hs.least i hi
        rw [hlead, hlead]
        omega
      · have := hs.first i hi his
        rw [hlead, hlead]
        omega
    obtain rfl : s = t := hsel.unique ht
    have hcol : leadCol n (row L s) = leadCol (n + m) (row A s) := by rw [hlead]; omega
    rw [(hstep.resolve_left fun h => by omega).2, (hstepL.resolve_left fun h => by omega).2,
      map_eliminate_of_lt hlt, hswap, hcol]
  · have hnone (i : Nat) (hi : r ≤ i) : leadCol n (row L i) = n := by
      have := hs.least i hi
      rw [hlead]
      omega
    have hzero (i : Nat) (hi : r ≤ i) : row L i = 0 := by
      refine (leadCol_eq_self_iff (row_lt (fun a ha => ?_) i)).mp (hnone i hi)
      obtain ⟨b, _, rfl⟩ := List.mem_map.mp ha
      exact Nat.mod_lt b (Nat.two_pow_pos n)
    have hunchanged (u : Nat) (hru : r ≤ u) (hu : u < L.length) : swapRows L r u = L :=
      swapRows_of_row_eq hrL hu (by rw [hzero r le_rfl, hzero u hru])
    have hleft : (rrefStep (n + m) A r).map (· % 2 ^ n) = L := by
      rcases hstep with ⟨_, h⟩ | ⟨_, h⟩
      · rw [h, hswap, hunchanged s hs.le hsL]
      · rw [h, eliminate_eq_addRow, map_addRow (xorHom_mod n), hswap, hunchanged s hs.le hsL,
          addRow_of_row_eq_zero (hzero r le_rfl)]
    have := hnone t ht.le
    rw [hleft, (hstepL.resolve_right fun h => by omega).2, hunchanged t ht.le ht.lt]

theorem map_rrefUpTo_mod (n m : Nat) (A : List Nat) (r : Nat) (hr : r ≤ A.length) :
    (rrefUpTo (n + m) A r).map (· % 2 ^ n) = rrefUpTo n (A.map (· % 2 ^ n)) r := by
  induction r with
  | zero => rfl
  | succ r ih => rw [rrefUpTo, rrefUpTo, map_rrefStep_mod n m (by rw [length_rrefUpTo]; omega), ih (by omega)]

/-- The reduced matrix of `xrref` is the reduction of the input alone (42_matrix.md R350). -/
theorem xrref_red {n : Nat} {M : List Nat} (hM : ∀ a ∈ M, a < 2 ^ n) : (xrref n M).red = rref n M := by
  change (rref (n + M.length) (augment n M)).map (· % 2 ^ n) = rref n M
  rw [rref, map_rrefUpTo_mod n M.length (augment n M) _ le_rfl, augment_mod hM, length_augment, rref]

end Sys2Proof.Machine

/-! ### The pivot scan -/

namespace Sys2Proof.Machine

theorem isBasisColumn_iff (A : List Nat) (j p : Nat) :
    isBasisColumn A j p = true ↔ ∀ i, i < A.length → entry A i j = decide (i = p) := by
  simp only [isBasisColumn, List.all_eq_true, List.mem_range, beq_iff_eq]
  rfl

/-- A column at or before the lead of row p is the basis column of row p exactly when row p leads there. -/
theorem Echelon.isBasisColumn_iff_leadCol {n j p : Nat} {A : List Nat} (h : Echelon n A.length A) (hp : p < A.length)
    (hj : j < n) (hle : j ≤ leadCol n (row A p)) :
    isBasisColumn A j p = true ↔ leadCol n (row A p) = j := by
  rw [isBasisColumn_iff]
  constructor
  · intro hcol
    have hbit : entry A p j = true := by simpa using hcol p hp
    exact (leadCol_eq_iff hj _).mpr ⟨hbit, (le_leadCol_iff hj.le _).mp hle⟩
  · intro hlead i _
    by_cases hip : i = p
    · have hbit : (row A p).testBit j = true := ((leadCol_eq_iff hj _).mp hlead).1
      simpa [hip, entry] using hbit
    · have hclear := h.cleared p i hp hip (hlead.trans_lt hj)
      rw [hlead] at hclear
      simpa [hip] using hclear

/-- The scan from column j, once it has the leads of the rows that lead before j, ends with the leads of all rows
(42_matrix.md R350). -/
theorem pivotsFrom_getElem? {n m j : Nat} {A piv : List Nat} (h : Echelon n A.length A) (hn : j + m = n)
    (hlen : piv.length ≤ A.length) (hpiv : ∀ i, i < piv.length → piv[i]? = lead n (row A i))
    (hrest : ∀ i, piv.length ≤ i → j ≤ leadCol n (row A i)) (i : Nat) :
    (pivotsFrom A m j piv)[i]? = lead n (row A i) := by
  induction m generalizing j piv with
  | zero =>
    rcases lt_or_ge i piv.length with hi | hi
    · exact hpiv i hi
    · have := hrest i hi
      rw [pivotsFrom, List.getElem?_eq_none hi, lead_eq, if_neg (by omega)]
  | succ m ih =>
    rw [pivotsFrom]
    split_ifs with hfull hcol
    · rcases lt_or_ge i piv.length with hi | hi
      · exact hpiv i hi
      · rw [List.getElem?_eq_none hi, row_of_le (by omega), lead_eq, leadCol_zero, if_neg (lt_irrefl n)]
    · have hp : piv.length < A.length := by omega
      rw [h.isBasisColumn_iff_leadCol hp (by omega) (hrest _ le_rfl)] at hcol
      refine ih (by omega) (by simpa using hp) (fun l hl => ?_) fun l hl => ?_
      · rw [List.length_append, List.length_singleton] at hl
        rcases Nat.lt_succ_iff_lt_or_eq.mp hl with hl | rfl
        · rw [List.getElem?_append_left hl, hpiv l hl]
        · rw [List.getElem?_concat_length, eq_comm, lead_eq_some_iff]
          exact ⟨hcol, by omega⟩
      · rw [List.length_append, List.length_singleton] at hl
        rcases h.leads piv.length l hp hl with hlt | hnone <;> omega
    · have hp : piv.length < A.length := by omega
      rw [h.isBasisColumn_iff_leadCol hp (by omega) (hrest _ le_rfl)] at hcol
      have hnext := hrest _ le_rfl
      refine ih (by omega) hlen hpiv fun l hl => ?_
      rcases hl.eq_or_lt with rfl | hl
      · omega
      · rcases h.leads piv.length l hp hl with hlt | hnone <;> omega

/-- The reduced matrix of `xrref` has k rows of n columns in reduced row-echelon form (42_matrix.md R350). -/
theorem xrref_echelon {n : Nat} {M : List Nat} (hM : ∀ a ∈ M, a < 2 ^ n) :
    (xrref n M).red.length = M.length ∧ Echelon n M.length (xrref n M).red ∧ (∀ a ∈ (xrref n M).red, a < 2 ^ n) := by
  rw [xrref_red hM]
  exact ⟨length_rref n M, echelon_rref n M, rref_lt hM⟩

theorem xrref_piv_getElem? {n : Nat} {M : List Nat} (hM : ∀ a ∈ M, a < 2 ^ n) (i : Nat) :
    (xrref n M).piv[i]? = lead n (row (xrref n M).red i) := by
  obtain ⟨hlen, hech, _⟩ := xrref_echelon hM
  rw [← hlen] at hech
  exact pivotsFrom_getElem? (piv := []) hech (Nat.zero_add n) (Nat.zero_le _)
    (fun _ hl => absurd hl (Nat.not_lt_zero _)) (fun _ _ => Nat.zero_le _) i

/-- A pivot is the leading column of its row. -/
theorem xrref_piv_row {n : Nat} {M : List Nat} (hM : ∀ a ∈ M, a < 2 ^ n) {i : Nat} (hi : i < (xrref n M).piv.length) :
    leadCol n (row (xrref n M).red i) = row (xrref n M).piv i ∧ row (xrref n M).piv i < n := by
  have h := xrref_piv_getElem? hM i
  rw [List.getElem?_eq_getElem hi, eq_comm, lead_eq_some_iff] at h
  rwa [row_of_lt hi]

theorem xrref_piv_lt {n : Nat} {M : List Nat} (hM : ∀ a ∈ M, a < 2 ^ n) : ∀ j ∈ (xrref n M).piv, j < n := by
  intro j hj
  obtain ⟨r, hr, rfl⟩ := List.mem_iff_getElem.mp hj
  rw [← row_of_lt hr]
  exact (xrref_piv_row hM hr).2

theorem xrref_piv_length_le_rows {n : Nat} {M : List Nat} (hM : ∀ a ∈ M, a < 2 ^ n) :
    (xrref n M).piv.length ≤ M.length := by
  by_contra hlt
  obtain ⟨hlead, hn⟩ := xrref_piv_row hM (not_le.mp hlt)
  rw [row_of_le (xrref_echelon hM).1.le, leadCol_zero] at hlead
  omega

theorem xrref_piv_pairwise {n : Nat} {M : List Nat} (hM : ∀ a ∈ M, a < 2 ^ n) :
    (xrref n M).piv.Pairwise (· < ·) := by
  obtain ⟨_, hech, _⟩ := xrref_echelon hM
  refine List.pairwise_iff_getElem.mpr fun i j hi hj hij => ?_
  obtain ⟨hleadi, _⟩ := xrref_piv_row hM hi
  obtain ⟨hleadj, hjn⟩ := xrref_piv_row hM hj
  have hlt := hech.leads i j (hi.trans_le (xrref_piv_length_le_rows hM)) hij
  rw [← row_of_lt hi, ← row_of_lt hj]
  omega

/-- A list whose first m entries and no others are nonzero. -/
theorem length_filter_ne_zero {A : List Nat} {m : Nat} (hm : m ≤ A.length) (hne : ∀ i, i < m → row A i ≠ 0)
    (hzero : ∀ i, m ≤ i → row A i = 0) : (A.filter fun a => a != 0).length = m := by
  have htake : (A.take m).filter (fun a => a != 0) = A.take m := by
    refine List.filter_eq_self.mpr fun a ha => ?_
    obtain ⟨i, hi, rfl⟩ := List.mem_take_iff_getElem.mp ha
    rw [← row_of_lt (by omega)]
    simpa using hne i (by omega)
  have hdrop : (A.drop m).filter (fun a => a != 0) = [] := by
    refine List.filter_eq_nil_iff.mpr fun a ha => ?_
    obtain ⟨i, hi, rfl⟩ := List.mem_drop_iff_getElem.mp ha
    rw [← row_of_lt (by omega), hzero _ (by omega)]
    decide
  rw [← List.take_append_drop m A, List.filter_append, htake, hdrop, List.append_nil, List.length_take, min_eq_left hm]

/-- Settles O54: the pivots are the leads of the rows, and the rows that have a lead come first. -/
theorem xrrefReducesAsRrefAndListsPivots : Obligations.XrrefReducesAsRrefAndListsPivots := by
  intro n M hM
  obtain ⟨hlen, _, hlt⟩ := xrref_echelon hM
  refine ⟨xrref_red hM, (length_filter_ne_zero (hlen ▸ xrref_piv_length_le_rows hM) (fun i hi hrow => ?_)
    fun i hi => ?_).symm, xrref_piv_pairwise hM, xrref_piv_getElem? hM⟩
  · obtain ⟨hlead, hn⟩ := xrref_piv_row hM hi
    rw [hrow, leadCol_zero] at hlead
    omega
  · have hnone := xrref_piv_getElem? hM i
    rw [List.getElem?_eq_none hi, lead_eq] at hnone
    refine (leadCol_eq_self_iff (row_lt hlt i)).mp (le_antisymm (leadCol_le _ _) ?_)
    by_contra h
    rw [if_pos (not_le.mp h)] at hnone
    cases hnone

end Sys2Proof.Machine


/-! ### The right inverse -/

namespace Sys2Proof.Machine

/-- The column of pivot r has its only 1 in row r. -/
theorem entry_red_piv {n : Nat} {M : List Nat} (hM : ∀ a ∈ M, a < 2 ^ n) {r : Nat} (hr : r < (xrref n M).piv.length)
    (i : Nat) : entry (xrref n M).red i (row (xrref n M).piv r) = decide (i = r) := by
  obtain ⟨hlead, hn⟩ := xrref_piv_row hM hr
  rw [← hlead] at hn ⊢
  by_cases hir : i = r
  · rw [hir, entry, testBit_leadCol hn, decide_eq_true rfl]
  · rw [(xrref_echelon hM).2.1.cleared r i (hr.trans_le (xrref_piv_length_le_rows hM)) hir hn,
      decide_eq_false hir]

/-- The matrix E of the first m pivots (42_matrix.md R360). -/
def placePivots (n : Nat) (piv : List Nat) (m : Nat) : List Nat :=
  (List.range m).foldl (fun E i => E.set (row piv i) (row E (row piv i) ||| (1 <<< i))) (List.replicate n 0)

theorem pivotPlacement_eq (n : Nat) (piv : List Nat) : pivotPlacement n piv = placePivots n piv piv.length := rfl

theorem placePivots_succ (n : Nat) (piv : List Nat) (m : Nat) : placePivots n piv (m + 1) =
    (placePivots n piv m).set (row piv m) (row (placePivots n piv m) (row piv m) ||| (1 <<< m)) := by
  simp [placePivots, List.range_succ]

@[simp] theorem length_placePivots (n : Nat) (piv : List Nat) (m : Nat) : (placePivots n piv m).length = n := by
  induction m with
  | zero => simp [placePivots]
  | succ m ih => rw [placePivots_succ, List.length_set, ih]

/-- Column r of E has its only 1 in the row of pivot r. -/
theorem entry_placePivots (n : Nat) (piv : List Nat) (m r : Nat) {l : Nat} (hl : l < n) :
    entry (placePivots n piv m) l r = decide (r < m ∧ row piv r = l) := by
  induction m with
  | zero => simp [placePivots, entry, row, hl]
  | succ m ih =>
    have hprev : (row (placePivots n piv m) l).testBit r = decide (r < m ∧ row piv r = l) := ih
    rw [placePivots_succ, entry, row_set, length_placePivots]
    by_cases hrow : row piv m = l
    · rw [if_pos ⟨hrow, hrow ▸ hl⟩, hrow, Nat.testBit_or, hprev, Nat.one_shiftLeft, Nat.testBit_two_pow,
        ← Bool.decide_or, decide_eq_decide]
      constructor
      · rintro (⟨hr, hl⟩ | rfl)
        · exact ⟨by omega, hl⟩
        · exact ⟨by omega, hrow⟩
      · rintro ⟨hr, hl⟩
        rcases Nat.lt_succ_iff_lt_or_eq.mp hr with h | h
        · exact .inl ⟨h, hl⟩
        · exact .inr h.symm
    · rw [if_neg fun h => hrow h.1, hprev, decide_eq_decide]
      refine ⟨fun ⟨hr, hl⟩ => ⟨by omega, hl⟩, fun ⟨hr, hl⟩ => ⟨?_, hl⟩⟩
      rcases Nat.lt_succ_iff_lt_or_eq.mp hr with h | rfl
      · exact h
      · exact absurd hl hrow

/-- At full row rank E picks the identity out of the reduced matrix. -/
theorem red_matmul2_pivotPlacement {n : Nat} {M : List Nat} (hM : ∀ a ∈ M, a < 2 ^ n)
    (hfull : (xrref n M).piv.length = M.length) :
    matmul2 (xrref n M).red (pivotPlacement n (xrref n M).piv) = identityRows M.length := by
  have hlen := (xrref_echelon hM).1
  refine ext_row (by simpa using hlen) fun i hi => Nat.eq_of_testBit_eq fun r => ?_
  have hik : i < M.length := by rwa [length_matmul2, hlen] at hi
  rw [row_matmul2, row_identityRows hik, pivotPlacement_eq, length_placePivots, Nat.one_shiftLeft, Nat.testBit_two_pow]
  by_cases hr : r < (xrref n M).piv.length
  · have hcol (l : Nat) (hl : l < n) :
        entry (placePivots n (xrref n M).piv (xrref n M).piv.length) l r = decide (l = row (xrref n M).piv r) := by
      rw [entry_placePivots _ _ _ _ hl, decide_eq_decide, eq_comm (a := l)]
      exact and_iff_right hr
    rw [testBit_xorRows hcol, decide_eq_true (xrref_piv_row hM hr).2, Bool.true_and]
    exact entry_red_piv hM hr i
  · have hcol (l : Nat) (hl : l < n) :
        entry (placePivots n (xrref n M).piv (xrref n M).piv.length) l r = decide (l = n) := by
      rw [entry_placePivots _ _ _ _ hl, decide_eq_decide]
      omega
    rw [testBit_xorRows hcol, decide_eq_false (lt_irrefl n), Bool.false_and, decide_eq_false (by omega)]

/-- Settles O55: reduced as M is, the product is P, which is what the identity reduces to. -/
theorem rightInverseIsRight : Obligations.RightInverseIsRight := by
  intro n M hM hfull
  obtain ⟨f, f', hf, hred, hP⟩ := exists_rowOp_xrref hM
  have hPlen : (xrref n M).P.length = M.length := by rw [hP, hf.length_eq, length_identityRows]
  refine hf.injective (length_matmul2 _ _) (length_identityRows _) ?_
  calc f (matmul2 M (rightInverse n (xrref n M)))
      = matmul2 (xrref n M).red (matmul2 (pivotPlacement n (xrref n M).piv) (xrref n M).P) := by
        rw [← hf.matmul2_left, ← hred, rightInverse]
    _ = matmul2 (identityRows M.length) (xrref n M).P := by
        rw [← matmul2_assoc, red_matmul2_pivotPlacement hM hfull]
    _ = f (identityRows M.length) := by rw [← hPlen, identity_matmul2, hPlen, hP]

end Sys2Proof.Machine

/-! ### The null matrix -/

namespace Sys2Proof.Machine

/-- The parity of the ones two rows of n columns share. -/
def overlapParity (n b a : Nat) : Nat := ((List.range n).filter fun j => a.testBit j && b.testBit j).length % 2

theorem overlapParity_succ (n b a : Nat) :
    overlapParity (n + 1) b a = overlapParity n b a ^^^ (a.testBit n && b.testBit n).toNat := by
  have hpar := Nat.mod_two_eq_zero_or_one ((List.range n).filter fun j => a.testBit j && b.testBit j).length
  rw [overlapParity, overlapParity, List.range_succ, List.filter_append, List.length_append, List.filter_singleton,
    Nat.add_mod]
  cases a.testBit n && b.testBit n <;> rcases hpar with h | h <;> simp [h]

theorem xorHom_overlapParity (n b : Nat) : XorHom (overlapParity n b) := by
  intro a a'
  induction n with
  | zero => simp [overlapParity]
  | succ n ih =>
    have hbit : ((a ^^^ a').testBit n && b.testBit n).toNat =
        (a.testBit n && b.testBit n).toNat ^^^ (a'.testBit n && b.testBit n).toNat := by
      rw [Nat.testBit_xor]
      cases a.testBit n <;> cases a'.testBit n <;> cases b.testBit n <;> rfl
    rw [overlapParity_succ, overlapParity_succ, overlapParity_succ, ih, hbit]
    ac_rfl

theorem mem_freeColumns (n : Nat) (piv : List Nat) (j : Nat) : j ∈ freeColumns n piv ↔ j < n ∧ j ∉ piv := by
  simp [freeColumns]

theorem nodup_freeColumns (n : Nat) (piv : List Nat) : (freeColumns n piv).Nodup := List.nodup_range.filter _

theorem length_freeColumns {n : Nat} {piv : List Nat} (hnodup : piv.Nodup) (hlt : ∀ j ∈ piv, j < n) :
    (freeColumns n piv).length = n - piv.length := by
  have hperm : ((List.range n).filter fun j => piv.contains j).Perm piv := by
    refine (List.perm_ext_iff_of_nodup (List.nodup_range.filter _) hnodup).mpr fun j => ?_
    simpa using hlt j
  have hsplit := List.length_eq_length_filter_add (l := List.range n) fun j => piv.contains j
  rw [hperm.length_eq, List.length_range] at hsplit
  change n = piv.length + (freeColumns n piv).length at hsplit
  omega

/-- The row of the null matrix of the free column `f` (42_matrix.md R370). -/
def nullRow (x : Xrref) (f : Nat) : Nat := (1 <<< f) ||| nullPivotBits x f x.piv.length

theorem nullMatrix_eq (n : Nat) (x : Xrref) : nullMatrix n x = (freeColumns n x.piv).map (nullRow x) := rfl

theorem testBit_nullPivotBits (x : Xrref) (f m j : Nat) :
    (nullPivotBits x f m).testBit j = true ↔ ∃ r, r < m ∧ entry x.red r f = true ∧ row x.piv r = j := by
  induction m with
  | zero => simp [nullPivotBits]
  | succ m ih =>
    simp only [Nat.lt_succ_iff_lt_or_eq, or_and_right, exists_or, exists_eq_left, ← ih, nullPivotBits]
    split_ifs with h <;> simp [h, Nat.one_shiftLeft, Nat.testBit_two_pow]

theorem testBit_nullRow (x : Xrref) (f j : Nat) : (nullRow x f).testBit j = true ↔
    f = j ∨ ∃ r, r < x.piv.length ∧ entry x.red r f = true ∧ row x.piv r = j := by
  rw [nullRow, Nat.testBit_or, Bool.or_eq_true, testBit_nullPivotBits, Nat.one_shiftLeft, Nat.testBit_two_pow,
    decide_eq_true_eq]

/-- On the free columns a null row is a basis vector. -/
theorem testBit_nullRow_of_free {n : Nat} {x : Xrref} (f : Nat) {j : Nat} (hj : j ∈ freeColumns n x.piv) :
    (nullRow x f).testBit j = decide (f = j) := by
  rw [Bool.eq_iff_iff, testBit_nullRow, decide_eq_true_eq, or_iff_left]
  rintro ⟨r, hr, _, rfl⟩
  exact ((mem_freeColumns n x.piv _).mp hj).2 (row_mem hr)

/-- A reduced row shares with the null row of column f nothing, or exactly column f and its own pivot. -/
theorem overlapParity_red_nullRow {n : Nat} {M : List Nat} (hM : ∀ a ∈ M, a < 2 ^ n) {i f : Nat}
    (hi : i < (xrref n M).piv.length) (hf : f ∈ freeColumns n (xrref n M).piv) :
    overlapParity n (nullRow (xrref n M) f) (row (xrref n M).red i) = 0 := by
  obtain ⟨hfn, hfree⟩ := (mem_freeColumns n _ f).mp hf
  have hshared (j : Nat) :
      ((row (xrref n M).red i).testBit j && (nullRow (xrref n M) f).testBit j) = true ↔
        entry (xrref n M).red i f = true ∧ (j = f ∨ j = row (xrref n M).piv i) := by
    rw [Bool.and_eq_true, testBit_nullRow]
    constructor
    · rintro ⟨hbit, rfl | ⟨r, hr, hrf, rfl⟩⟩
      · exact ⟨hbit, .inl rfl⟩
      · rw [← entry, entry_red_piv hM hr, decide_eq_true_eq] at hbit
        exact hbit ▸ ⟨hbit ▸ hrf, .inr rfl⟩
    · rintro ⟨hif, rfl | rfl⟩
      · exact ⟨hif, .inl rfl⟩
      · rw [← entry, entry_red_piv hM hi, decide_eq_true rfl]
        exact ⟨rfl, .inr ⟨i, hi, hif, rfl⟩⟩
  rw [overlapParity]
  by_cases hif : entry (xrref n M).red i f = true
  · have hperm : ((List.range n).filter fun j =>
        (row (xrref n M).red i).testBit j && (nullRow (xrref n M) f).testBit j).Perm [f, row (xrref n M).piv i] := by
      have hne : f ≠ row (xrref n M).piv i := fun h => hfree (h ▸ row_mem hi)
      refine (List.perm_ext_iff_of_nodup (List.nodup_range.filter _) (by simpa using hne)).mpr fun j => ?_
      rw [List.mem_filter, hshared, List.mem_range, List.mem_pair, and_iff_right hif]
      refine and_iff_right_of_imp ?_
      rintro (rfl | rfl)
      · exact hfn
      · exact (xrref_piv_row hM hi).2
    simp [hperm.length_eq]
  · rw [List.filter_eq_nil_iff.mpr fun j _ h => hif ((hshared j).mp h).1]
    rfl

/-- A parity that is 0 on the reduced rows is 0 on the rows of the input. -/
theorem eq_zero_of_red_eq_zero {n : Nat} {M : List Nat} (hM : ∀ a ∈ M, a < 2 ^ n) {g : Nat → Nat} (hg : XorHom g)
    (hred : ∀ i, i < M.length → g (row (xrref n M).red i) = 0) : ∀ a ∈ M, g a = 0 := by
  obtain ⟨f, f', hf, heq, _⟩ := exists_rowOp_xrref hM
  suffices h : M.map g = M.map fun _ => 0 from List.map_inj_left.mp h
  refine hf.injective (by simp) (by simp) ?_
  rw [← hf.map_eq g hg, ← hf.map_eq _ xorHom_zero, ← heq]
  refine ext_row (by simp) fun i hi => ?_
  rw [row_map g hg.zero, row_map _ rfl]
  exact hred i (by simpa [(xrref_echelon hM).1] using hi)

/-- Settles O56: the parities vanish on the reduced rows, and column free[i] of N shows that row i is not a sum of the
others. -/
theorem nullRowsAreOrthogonalAndIndependent : Obligations.NullRowsAreOrthogonalAndIndependent := by
  intro n M hM hfull
  set x := xrref n M with hx
  have hlen : (freeColumns n x.piv).length = n - M.length := by
    rw [← hfull]
    exact length_freeColumns (xrref_piv_pairwise hM).nodup (xrref_piv_lt hM)
  refine ⟨by rw [nullMatrix_eq, List.length_map, hlen], fun a ha b hb => ?_, fun sel hsel hsum => ?_⟩
  · obtain ⟨f, hf, rfl⟩ := List.mem_map.mp (nullMatrix_eq n x ▸ hb)
    exact eq_zero_of_red_eq_zero hM (xorHom_overlapParity n _)
      (fun i hi => overlapParity_red_nullRow hM (hfull ▸ hi) hf) a ha
  · refine Nat.eq_of_testBit_eq fun i => ?_
    rw [Nat.zero_testBit]
    rcases lt_or_ge i (n - M.length) with hi | hi
    · have hifree : i < (freeColumns n x.piv).length := hlen ▸ hi
      have hcol (l : Nat) (hl : l < n - M.length) :
          entry (nullMatrix n x) l (freeColumns n x.piv)[i] = decide (l = i) := by
        have hlfree : l < (freeColumns n x.piv).length := hlen ▸ hl
        rw [entry, nullMatrix_eq, row_of_lt (by simpa using hlfree), List.getElem_map,
          testBit_nullRow_of_free _ (List.getElem_mem hifree), decide_eq_decide]
        exact (nodup_freeColumns n x.piv).getElem_inj_iff
      have hbit := testBit_xorRows hcol sel
      rwa [hsum, Nat.zero_testBit, decide_eq_true hi, Bool.true_and, eq_comm] at hbit
    · exact Nat.testBit_lt_two_pow (hsel.trans_le (Nat.pow_le_pow_right (by decide) hi))

end Sys2Proof.Machine

/-! ### The matrix commands -/

namespace Sys2Proof.Machine

/-- Each matrix command begins with the dimension check (42_matrix.md R331). -/
theorem exec_eq_withInput {i : Instr} (hi : i ∈ [Instr.mrref, .mxrref, .mrinv, .mnull]) (s : State) :
    ∃ body, exec i s = s.withInput (BitVec.ofNat 8 i.opcode) body := by
  simp only [List.mem_cons, List.not_mem_nil, or_false] at hi
  rcases hi with rfl | rfl | rfl | rfl
  · exact ⟨_, show execMrref s = _ by rw [execMrref]; rfl⟩
  · exact ⟨_, show execMxrref s = _ by rw [execMxrref]; rfl⟩
  · exact ⟨_, show execMrinv s = _ by rw [execMrinv]; rfl⟩
  · exact ⟨_, show execMnull s = _ by rw [execMnull]; rfl⟩

/-- Settles O47: the dimension check comes before each command's body. -/
theorem matrixCommandsCheckDimensions : Obligations.MatrixCommandsCheckDimensions := by
  intro i s hi hdims
  have hnone : s.inputDims = none := (inputDims_eq_none s).mpr (by omega)
  obtain ⟨body, hexec⟩ := exec_eq_withInput hi s
  rw [hexec, State.withInput, hnone]
  exact ⟨_, rfl, completeError_ends s _ .edim⟩

theorem withInput_of_dims (s : State) (op : BitVec 8) (body : Nat → Nat → List Nat → Result) {k n : Nat}
    (h : s.inputDims = some (k, n)) : s.withInput op body = body k n (s.bankMatrix 0 k n) := by
  rw [State.withInput, h]

/-- MRREF completes with the reduced input in bank 1 (42_matrix.md R341). -/
theorem exec_mrref {s : State} {k n : Nat} (h : s.inputDims = some (k, n)) :
    exec .mrref s = .next ((s.writeMatrix 1 k n (rref n (s.bankMatrix 0 k n))).completeOk 0x30 false) :=
  withInput_of_dims s 0x30 (fun k n M => .next ((s.writeMatrix 1 k n (rref n M)).completeOk 0x30 false)) h

/-- MXRREF completes with the reduced matrix, the transform and the pivots (42_matrix.md R352). -/
theorem exec_mxrref {s : State} {k n : Nat} {x : Xrref} (h : s.inputDims = some (k, n))
    (hx : x = xrref n (s.bankMatrix 0 k n)) :
    exec .mxrref s =
      .next ((((s.writeMatrix 1 k n x.red).writeMatrix 2 k k x.P).setPivots x.piv).completeOk 0x31 false) := by
  change execMxrref s = _
  rw [execMxrref, withInput_of_dims s _ _ h, hx]

/-- MRINV ends with ERANK below full row rank and else completes (42_matrix.md R360). -/
theorem exec_mrinv {s : State} {k n : Nat} {x : Xrref} (h : s.inputDims = some (k, n))
    (hx : x = xrref n (s.bankMatrix 0 k n)) :
    exec .mrinv s =
      if x.piv.length < k then .next (s.completeError 0x32 .erank)
      else .next ((s.writeMatrix 3 n k (rightInverse n x)).completeOk 0x32 false) := by
  change execMrinv s = _
  rw [execMrinv, withInput_of_dims s _ _ h, hx]

/-- MNULL ends with ERANK below full row rank and else completes (42_matrix.md R370). -/
theorem exec_mnull {s : State} {k n : Nat} {x : Xrref} (h : s.inputDims = some (k, n))
    (hx : x = xrref n (s.bankMatrix 0 k n)) :
    exec .mnull s =
      if x.piv.length < k then .next (s.completeError 0x33 .erank)
      else .next ((s.writeMatrix 3 (n - k) n (nullMatrix n x)).completeOk 0x33 false) := by
  change execMnull s = _
  rw [execMnull, withInput_of_dims s _ _ h, hx]

/-- Read after write of a matrix in its own bank (42_matrix.md R333). -/
theorem bankHolds_writeMatrix (s : State) (b : Fin 4) {r c : Nat} (A : List Nat) (hr : r ≤ 64) (hc : c ≤ 64) :
    BankHolds (s.writeMatrix b r c A) b r c A := by
  have hdim : (s.writeMatrix b r c A).dim b = Dim.ofNats r c := by
    rw [State.writeMatrix_eq, State.dim_setDim, if_pos rfl]
  refine ⟨?_, ?_, fun i => ?_⟩
  · rw [hdim]
    exact Nat.mod_eq_of_lt (by omega)
  · rw [hdim]
    exact Nat.mod_eq_of_lt (by omega)
  · rw [State.writeMatrix_eq, State.setDim_bankRow, State.bankRow_setBank, if_pos rfl, bankOf_row]
    split_ifs
    · rw [BitVec.toNat_ofNat, Nat.mod_eq_of_lt]
      exact (Nat.mod_lt _ (Nat.two_pow_pos c)).trans_le (Nat.pow_le_pow_right (by decide) hc)
    · rfl

/-- A matrix written to one bank leaves the others (42_matrix.md R333). -/
theorem sameBanksBut_writeMatrix (s : State) (b : Fin 4) (r c : Nat) (A : List Nat) :
    SameBanksBut [b] s (s.writeMatrix b r c A) := by
  intro a ha
  have hab : a ≠ b := by simpa using ha
  rw [State.writeMatrix_eq]
  refine ⟨?_, fun i => ?_⟩
  · rw [State.dim_setDim, if_neg hab, State.setBank_dim]
  · rw [State.setDim_bankRow, State.bankRow_setBank, if_neg hab]

/-- A command that writes one matrix and completes. -/
theorem writeMatrix_completeOk (s : State) (b : Fin 4) {r c : Nat} (A : List Nat) (op : BitVec 8) (hr : r ≤ 64)
    (hc : c ≤ 64) :
    BankHolds ((s.writeMatrix b r c A).completeOk op false) b r c A ∧
      EndsOk op false s ((s.writeMatrix b r c A).completeOk op false) ∧
      OnlyBanks [b] s ((s.writeMatrix b r c A).completeOk op false) :=
  ⟨bankHolds_writeMatrix s b A hr hc, completeOk_endsOk s _ _ _ (by simp) (by simp), by simp [SameRegsBut],
    by simp [SameField], sameBanksBut_writeMatrix s b r c A, by simp [SamePivots], by simp [SameConj],
    by simp [SameHost], by simp [SameCaches]⟩

/-- Settles O48: MRREF writes one matrix. -/
theorem mrrefReducesTheInput : Obligations.MrrefReducesTheInput := by
  intro s k n hdims
  obtain ⟨_, _, _, hk, _, hn⟩ := (inputDims_eq_some s k n).mp hdims
  exact ⟨_, exec_mrref hdims, writeMatrix_completeOk s 1 _ 0x30 hk hn⟩

/-- PIVCNT and PIVOT hold a list of at most 64 columns exactly, with zeros beyond it (10_state.md R72). -/
theorem setPivots_values (s : State) (piv : List Nat) (hlen : piv.length ≤ 64) (hpiv : ∀ j ∈ piv, j < 2 ^ 6) :
    (s.setPivots piv).pivCnt.toNat = piv.length ∧
      ∀ i : Fin 64, ((s.setPivots piv).piv[i]).toNat = piv.getD i.val 0 := by
  refine ⟨Nat.mod_eq_of_lt (by omega), fun i => ?_⟩
  simp only [State.setPivots, Fin.getElem_fin, Vector.getElem_ofFn, BitVec.toNat_ofNat]
  exact Nat.mod_eq_of_lt (row_lt hpiv i)

/-- The banks after a matrix to bank 1 and one to bank 2. -/
theorem writeMatrix_two_banks (s : State) {k n : Nat} (A B : List Nat) (hk : k ≤ 64) (hn : n ≤ 64) :
    BankHolds ((s.writeMatrix 1 k n A).writeMatrix 2 k k B) 1 k n A ∧
      BankHolds ((s.writeMatrix 1 k n A).writeMatrix 2 k k B) 2 k k B ∧
      SameBanksBut [1, 2] s ((s.writeMatrix 1 k n A).writeMatrix 2 k k B) := by
  have first := sameBanksBut_writeMatrix s 1 k n A
  have second := sameBanksBut_writeMatrix (s.writeMatrix 1 k n A) 2 k k B
  refine ⟨?_, bankHolds_writeMatrix _ 2 B hk hk, fun b hb => ?_⟩
  · obtain ⟨hrows, hcols, hbank⟩ := bankHolds_writeMatrix s 1 A hk hn
    obtain ⟨hdim, hrow⟩ := second 1 (by decide)
    exact ⟨by rw [hdim, hrows], by rw [hdim, hcols], fun i => by rw [hrow i, hbank i]⟩
  · obtain ⟨h1, h2⟩ : b ≠ 1 ∧ b ≠ 2 := by simpa using hb
    obtain ⟨hdim1, hrow1⟩ := first b (by simpa using h1)
    obtain ⟨hdim2, hrow2⟩ := second b (by simpa using h2)
    exact ⟨hdim2.trans hdim1, fun r => (hrow2 r).trans (hrow1 r)⟩

/-- Settles O49: MXRREF writes two matrices to different banks and the pivot list. -/
theorem mxrrefWritesTransformAndPivots : Obligations.MxrrefWritesTransformAndPivots := by
  intro s k n x hdims hx
  obtain ⟨_, _, _, hk, _, hn⟩ := (inputDims_eq_some s k n).mp hdims
  have hlen : x.piv.length ≤ 64 := by
    rw [hx]
    exact (xrref_piv_length_le n _).trans hn
  have hlt : ∀ j ∈ x.piv, j < 2 ^ 6 := by
    rw [hx]
    exact fun j hj => (xrref_piv_lt (bankMatrix_lt s 0 k n) j hj).trans_le hn
  obtain ⟨hred, hP, hbanks⟩ := writeMatrix_two_banks s x.red x.P hk hn
  obtain ⟨hcnt, hpiv⟩ := setPivots_values ((s.writeMatrix 1 k n x.red).writeMatrix 2 k k x.P) x.piv hlen hlt
  refine ⟨_, exec_mxrref hdims hx, hred, hP, hcnt, hpiv, completeOk_endsOk s _ _ _ ?_ ?_, ?_, ?_, hbanks, ?_, ?_, ?_⟩
  all_goals simp [SameRegsBut, SameField, SameConj, SameHost, SameCaches]

/-- Settles O50: the pivot count decides between the product and ERANK. -/
theorem mrinvInvertsOrFails : Obligations.MrinvInvertsOrFails := by
  intro s k n x hdims hx
  obtain ⟨_, _, _, hk, _, hn⟩ := (inputDims_eq_some s k n).mp hdims
  rw [exec_mrinv hdims hx]
  refine ⟨fun hfull => ?_, fun hlow => ?_⟩
  · rw [if_neg (not_lt.mpr hfull)]
    exact ⟨_, rfl, writeMatrix_completeOk s 3 _ 0x32 hn hk⟩
  · rw [if_pos hlow]
    exact ⟨_, rfl, completeError_ends s 0x32 .erank⟩

/-- Settles O51: the pivot count decides between the null matrix and ERANK. -/
theorem mnullWritesNullMatrixOrFails : Obligations.MnullWritesNullMatrixOrFails := by
  intro s k n x hdims hx
  obtain ⟨_, _, _, _, _, hn⟩ := (inputDims_eq_some s k n).mp hdims
  rw [exec_mnull hdims hx]
  refine ⟨fun hfull => ?_, fun hlow => ?_⟩
  · rw [if_neg (not_lt.mpr hfull)]
    exact ⟨_, rfl, writeMatrix_completeOk s 3 _ 0x33 ((Nat.sub_le n k).trans hn) hn⟩
  · rw [if_pos hlow]
    exact ⟨_, rfl, completeError_ends s 0x33 .erank⟩

end Sys2Proof.Machine

/-! ### The system command -/

namespace Sys2Proof.Machine

/-- CFLUSH flushes the caches and completes (43_system.md R380). -/
theorem exec_cflush (s : State) : exec .cflush s = .next (s.flushCaches.completeOk 0x01 false) := rfl

/-- Emptying the caches changes nothing software can see. -/
theorem OnlyRegs.flushCaches {rs : List Reg} {s t : State} (h : OnlyRegs rs s t) : OnlyRegs rs s t.flushCaches := h

theorem flushCaches_completeOk_caches (s : State) (op : BitVec 8) (nf : Bool) :
    (s.flushCaches.completeOk op nf).caches = Caches.empty := by
  rw [State.completeOk_caches, State.flushCaches_caches]

/-- Settles O29: CFLUSH writes the empty caches and what completion itself writes. -/
theorem cflushEmptiesCaches : Obligations.CflushEmptiesCaches := by
  intro s
  have hcaches := flushCaches_completeOk_caches s 0x01 false
  have hends : EndsOk 0x01 false s (s.flushCaches.completeOk 0x01 false) :=
    completeOk_endsOk s s.flushCaches _ _ (State.flushCaches_status s) (State.flushCaches_cmdCount s)
  have hframe : OnlyRegs [] s (s.flushCaches.completeOk 0x01 false) :=
    (OnlyRegs.refl [] s).flushCaches.completeOk _ _
  refine ⟨_, exec_cflush s, ?_, ?_, ?_, ?_, hends, hframe⟩
  all_goals rw [hcaches, Caches.empty]

end Sys2Proof.Machine

/-! ### Legal and illegal words

A word that decodes is the encoding of its command, so that each cause of EILL (60_exceptions.md R402) rules decoding
out. -/

namespace Sys2Proof

/-- The opcodes of the opcode map (30_encoding.md R155). -/
theorem Instr.opcode_mem (i : Instr) :
    i.opcode ∈ [0x01, 0x10, 0x11, 0x12, 0x13, 0x14, 0x15, 0x20, 0x21, 0x22, 0x23, 0x24, 0x25, 0x26, 0x27, 0x28, 0x29,
      0x30, 0x31, 0x32, 0x33] := by
  cases i <;> simp [Instr.opcode]

/-- OP, RSV and the high half of every encoded command (30_encoding.md R151, R152). -/
theorem encodedOpcode (i : Instr) : Laws.EncodedOpcode.Statement i :=
  Laws.encodedOpcode_of_fields i (by cases i <;> rfl) (by cases i <;> rfl) (by cases i <;> rfl)

/-- Bits 63:24 are RSV and the high half together. -/
theorem bits_63_24_eq_zero (w : Word) (hrsv : bits w 31 24 = 0) (hhigh : bits w 63 32 = 0) : bits w 63 24 = 0 := by
  unfold bits at *
  omega

/-- The low byte of a word is its OP field. -/
theorem bits_7_0 (w : Word) : bits w 7 0 = w.toNat % 256 := by simp [bits]

/-- None of the causes of EILL holds for a word that decodes. -/
theorem legal_of_decode_ok {w : Word} {i : Instr} (h : decode w = .ok i) :
    encode i = w ∧ i.wf = true ∧ bits w 63 24 = 0 ∧ bits w 7 0 = i.opcode := by
  obtain ⟨rfl, hwf⟩ := legalWordReencodes w i h
  obtain ⟨hop, hrsv, hhigh⟩ := encodedOpcode i
  exact ⟨rfl, hwf, bits_63_24_eq_zero _ hrsv hhigh, hop⟩

end Sys2Proof

/-! ### The step of a ready core -/

namespace Sys2Proof.Machine

/-- A ready core that holds a word makes its own step on it (60_exceptions.md R406). -/
theorem step_of_ready {s : State} {w : Word} (hb : s.busy = some w) (hr : Ready s) : step s = s.coreStep w := by
  rcases step_cases s with ⟨hidle, _⟩ | ⟨v, hv, ⟨_, hs⟩ | ⟨hnot, _⟩⟩
  · simp [hidle] at hb
  · obtain rfl : v = w := Option.some.inj (hv.symm.trans hb)
    exact hs
  · exact absurd hr hnot

/-- Settles O6: the core's own step dispatches on the decoder. -/
theorem stepRunsDecodedCommand : Obligations.StepRunsDecodedCommand := by
  intro s w i hb hr hdecode
  rw [step_of_ready hb hr, State.coreStep, hdecode]

theorem coreStep_of_not_decode {w : Word} (h : ∀ i, decode w ≠ .ok i) (s : State) :
    s.coreStep w = .next (s.completeIllegal w) := by
  rcases coreStep_cases s w with ⟨i, hi, _⟩ | ⟨_, hs⟩
  · exact absurd hi (h i)
  · exact hs

/-- Settles O5: a word with one of the three causes does not decode, and EILL completes without writing anything
else. -/
theorem illegalWordEndsInEill : Obligations.IllegalWordEndsInEill := by
  intro s w hb hr hcause
  have hillegal : ∀ i, decode w ≠ .ok i := by
    intro i hi
    obtain ⟨hencode, hwf, hzero, hop⟩ := legal_of_decode_ok hi
    rcases hcause with hhigh | hreserved | hnone
    · exact hhigh hzero
    · exact hreserved (hop ▸ i.opcode_mem)
    · exact hnone i hwf hencode
  rw [step_of_ready hb hr, coreStep_of_not_decode hillegal s, State.completeIllegal, bits_7_0]
  exact ⟨_, rfl, completeError_ends s _ .eill⟩

end Sys2Proof.Machine

/-! ### Every command completes

How the destinations are written is followed up to the completion; what completion itself writes is the same for all
commands (60_exceptions.md R410, R411). -/

namespace Sys2Proof.Machine

/-- The outcome of a command with opcode `op`: one completion, BANK0, BDIM0 and CTRL kept, and with an error no
destination but the field context written (60_exceptions.md R410, R411; 20_memory.md R115). -/
def Completes (op : BitVec 8) (s : State) (r : Result) : Prop :=
  ∃ t, r = .next t ∧ t.ie = s.ie ∧ t.pending = s.pending ∧ t.replies = s.replies ∧
    t.dim 0 = s.dim 0 ∧ (∀ i, t.bankRow 0 i = s.bankRow 0 i) ∧
    ((∃ nf, EndsOk op nf s t) ∨
      ∃ e : ErrorCode, EndsError op e.code s t ∧ SameRegsBut [] s t ∧ SameBanksBut [] s t ∧
        SamePivots s t ∧ SameConj s t)

theorem completes_of_endsOk {op : BitVec 8} {nf : Bool} {s t : State} (h : EndsOk op nf s t)
    (hbanks : SameBanksBut [1, 2, 3] s t) (hhost : SameHost s t) : Completes op s (.next t) := by
  obtain ⟨hdim, hrows⟩ := hbanks 0 (by decide)
  obtain ⟨hie, hpending, hreplies, _⟩ := hhost
  exact ⟨t, rfl, hie, hpending, hreplies, hdim, hrows, .inl ⟨nf, h⟩⟩

theorem completes_of_endsError {op : BitVec 8} {e : ErrorCode} {s t : State} (h : EndsError op e.code s t)
    (hregs : SameRegsBut [] s t) (hbanks : SameBanksBut [] s t) (hpiv : SamePivots s t) (hconj : SameConj s t)
    (hhost : SameHost s t) : Completes op s (.next t) := by
  obtain ⟨hdim, hrows⟩ := hbanks 0 List.not_mem_nil
  obtain ⟨hie, hpending, hreplies, _⟩ := hhost
  exact ⟨t, rfl, hie, hpending, hreplies, hdim, hrows, .inr ⟨e, h, hregs, hbanks, hpiv, hconj⟩⟩

/-- Before completion a command that goes well may have written registers, the field context, BANK1 to BANK3, the lists
and the caches, which it leaves to completion to report. -/
def OnlyOutputs (s t : State) : Prop :=
  t.status = s.status ∧ t.cmdCount = s.cmdCount ∧ SameBanksBut [1, 2, 3] s t ∧ SameHost s t

theorem OnlyOutputs.refl (s : State) : OnlyOutputs s s := ⟨rfl, rfl, fun _ _ => ⟨rfl, fun _ => rfl⟩, rfl, rfl, rfl, rfl⟩

theorem OnlyOutputs.setReg {s t : State} (h : OnlyOutputs s t) (r : Reg) (v : Word) : OnlyOutputs s (t.setReg r v) := h

theorem OnlyOutputs.setPoly {s t : State} (h : OnlyOutputs s t) (r : Reg) (a : Nat) : OnlyOutputs s (t.setPoly r a) := h

theorem OnlyOutputs.setPivots {s t : State} (h : OnlyOutputs s t) (piv : List Nat) :
    OnlyOutputs s (t.setPivots piv) := h

theorem OnlyOutputs.setConj {s t : State} (h : OnlyOutputs s t) (seq : List Nat) : OnlyOutputs s (t.setConj seq) := h

theorem OnlyOutputs.useCaches {s t : State} (h : OnlyOutputs s t) (u : CacheUse) : OnlyOutputs s (t.useCaches u) := h

theorem OnlyOutputs.flushCaches {s t : State} (h : OnlyOutputs s t) : OnlyOutputs s t.flushCaches := h

theorem OnlyOutputs.writeMatrix {s t : State} (h : OnlyOutputs s t) (b : Fin 4) (hb : b ≠ 0) (r c : Nat)
    (A : List Nat) : OnlyOutputs s (t.writeMatrix b r c A) := by
  obtain ⟨hstatus, hcount, hbanks, hhost⟩ := h
  refine ⟨hstatus, hcount, fun a ha => ?_, hhost⟩
  have hab : a ∉ [b] := by revert a b; decide
  obtain ⟨hdim, hrows⟩ := sameBanksBut_writeMatrix t b r c A a hab
  obtain ⟨hdim', hrows'⟩ := hbanks a ha
  exact ⟨hdim.trans hdim', fun i => (hrows i).trans (hrows' i)⟩

theorem OnlyOutputs.completes {s t : State} (h : OnlyOutputs s t) (op : BitVec 8) (nf : Bool) :
    Completes op s (.next (t.completeOk op nf)) := by
  obtain ⟨hstatus, hcount, hbanks, hhost⟩ := h
  exact completes_of_endsOk (completeOk_endsOk s t op nf hstatus hcount) hbanks hhost

theorem completes_of_endsError_onlyRegs {op : BitVec 8} {e : ErrorCode} {s t : State} (h : EndsError op e.code s t)
    (hframe : OnlyRegs [] s t) : Completes op s (.next t) := by
  obtain ⟨hregs, _, hbanks, hpiv, hconj, hhost⟩ := hframe
  exact completes_of_endsError h hregs hbanks hpiv hconj hhost

/-- A refusal by a check. -/
theorem completes_error (s : State) (op : BitVec 8) (e : ErrorCode) :
    Completes op s (.next (s.completeError op e)) := by
  obtain ⟨hends, hframe, _⟩ := completeError_ends s op e
  exact completes_of_endsError_onlyRegs hends hframe

/-- A failure after the checks, when the caches may have been used. -/
theorem completes_useCaches_error (s : State) (u : CacheUse) (op : BitVec 8) (e : ErrorCode) :
    Completes op s (.next ((s.useCaches u).completeError op e)) := by
  obtain ⟨hends, hframe⟩ := useCaches_completeError_ends s u op e
  exact completes_of_endsError_onlyRegs hends hframe

theorem completes_ite {c : Prop} [Decidable c] {op : BitVec 8} {s : State} {r r' : Result} (h : Completes op s r)
    (h' : Completes op s r') : Completes op s (if c then r else r') := by
  split
  · exact h
  · exact h'

theorem completes_withElements {s : State} (op : BitVec 8) (l : List Nat) {body : Result} (h : Completes op s body) :
    Completes op s (s.withElements op l body) := by
  rcases withElements_cases s op l body with ⟨_, he⟩ | ⟨_, _, he⟩ | ⟨_, _, he⟩ <;> rw [he]
  · exact completes_error s op .enofield
  · exact completes_error s op .erange
  · exact h

theorem completes_withInput {s : State} (op : BitVec 8) {body : Nat → Nat → List Nat → Result}
    (h : ∀ k n M, Completes op s (body k n M)) : Completes op s (s.withInput op body) := by
  rcases withInput_cases s op body with ⟨_, he⟩ | ⟨k, n, _, he⟩ <;> rw [he]
  · exact completes_error s op .edim
  · exact h k n _

/-- A bad configuration is the one error that writes state: it clears the field context (41_field.md R255). -/
theorem completes_configure (s : State) (op : BitVec 8) (good : Bool) (k m : Nat) :
    Completes op s (.next (s.configure op good k m)) := by
  obtain ⟨hregs, hbanks, hpiv, hconj, hhost⟩ := configure_frame s op good k m
  cases good with
  | true =>
    obtain ⟨_, _, hends⟩ := configure_good s op k m
    exact completes_of_endsOk hends (fun b _ => hbanks b List.not_mem_nil) hhost
  | false =>
    obtain ⟨_, _, hends⟩ := configure_bad s op k m
    exact completes_of_endsError (e := .econfig) hends hregs hbanks hpiv hconj hhost

/-- FLOG and FLOG.P after their operand checks, with the exponent or with NF (41_field.md R280). -/
theorem completes_logarithm (s : State) (rd : Reg) (x base : Nat) :
    Completes 0x26 s (.next (s.logarithm rd x base)) := by
  have hused := (OnlyOutputs.refl s).useCaches CacheUse.logarithm
  cases h : flog s.field.mod s.field.degree x base with
  | some e =>
    rw [logarithm_of_some s rd x base e h]
    exact (hused.setPoly rd e).completes 0x26 false
  | none =>
    rw [logarithm_of_none s rd x base h]
    exact hused.completes 0x26 true

/-- Commands that end in the same ways share a case. -/
theorem exec_completes (i : Instr) (s : State) : Completes (BitVec.ofNat 8 i.opcode) s (exec i s) := by
  have start := OnlyOutputs.refl s
  cases i with
  | cflush => exact start.flushCaches.completes _ _
  | padd | pdeg => exact (start.setReg _ _).completes _ _
  | pmul | ppow => exact completes_ite (completes_error s _ _) ((start.setPoly _ _).completes _ _)
  | pdivmod =>
    exact completes_ite (completes_error s _ _) ((((start.useCaches _).setPoly _ _).setPoly _ _).completes _ _)
  | pgcd => exact ((((start.useCaches _).setPoly _ _).setPoly _ _).setPoly _ _).completes _ _
  | fcfg | fcfgD => exact completes_configure s _ _ _ _
  | fadd => exact completes_withElements _ _ ((start.setReg _ _).completes _ _)
  | fmul | feval => exact completes_withElements _ _ (((start.useCaches _).setPoly _ _).completes _ _)
  | finv | fdiv | fpow =>
    refine completes_withElements _ _ ?_
    split
    · exact completes_useCaches_error s _ _ _
    · exact ((start.useCaches _).setPoly _ _).completes _ _
  | flog | flogP => exact completes_withElements _ _ (completes_logarithm s _ _ _)
  | fconj =>
    refine completes_withElements _ _ ?_
    split
    · exact completes_useCaches_error s _ _ _
    · exact ((start.useCaches _).setConj _).completes _ _
  | fminp =>
    refine completes_withElements _ _ ?_
    split
    · exact completes_useCaches_error s _ _ _
    · exact completes_ite (((start.useCaches _).setPoly _ _).completes _ _) (completes_useCaches_error s _ _ _)
  | mrref =>
    unfold exec execMrref
    exact completes_withInput _ fun k n M => (start.writeMatrix 1 (by decide) _ _ _).completes _ _
  | mxrref =>
    unfold exec execMxrref
    refine completes_withInput _ fun k n M => ?_
    have hbanks := (start.writeMatrix 1 (by decide) k n (xrref n M).red).writeMatrix 2 (by decide) k k (xrref n M).P
    exact (hbanks.setPivots _).completes _ _
  | mrinv =>
    unfold exec execMrinv
    refine completes_withInput _ fun k n M => ?_
    exact completes_ite (completes_error s _ _) ((start.writeMatrix 3 (by decide) _ _ _).completes _ _)
  | mnull =>
    unfold exec execMnull
    refine completes_withInput _ fun k n M => ?_
    exact completes_ite (completes_error s _ _) ((start.writeMatrix 3 (by decide) _ _ _).completes _ _)

/-- Settles O57, command by command. -/
theorem everyCommandEnds : Obligations.EveryCommandEnds := exec_completes

end Sys2Proof.Machine

/-! ### The interrupt output -/

namespace Sys2Proof.Machine

/-- A completion sets DONE and leaves CTRL, so that IRQ shows IE (10_state.md R87). -/
theorem irq_of_done {s t : State} (hie : t.ie = s.ie) (hdone : t.status.done = true) : t.irq = s.ie := by
  rw [State.irq, hie, hdone, Bool.and_true]

theorem Completes.exists_irq {op : BitVec 8} {s : State} {r : Result} (h : Completes op s r) :
    ∃ t, r = .next t ∧ t.irq = s.ie := by
  obtain ⟨t, ht, hie, _, _, _, _, ⟨_, _, _, hdone, _⟩ | ⟨_, ⟨_, _, hdone, _⟩, _⟩⟩ := h
  · exact ⟨t, ht, irq_of_done hie hdone⟩
  · exact ⟨t, ht, irq_of_done hie hdone⟩

/-- The core's own step raises IRQ when enabled, whether its word is a command or illegal. -/
theorem coreStep_exists_irq (s : State) (w : Word) : ∃ t, s.coreStep w = .next t ∧ t.irq = s.ie := by
  rcases coreStep_cases s w with ⟨i, _, he⟩ | ⟨_, he⟩ <;> rw [he]
  · exact (exec_completes i s).exists_irq
  · exact (completes_error s _ .eill).exists_irq

/-- IRQ after a CTRL write: enabled by bit 0, cleared by bit 1 (10_state.md R55). -/
theorem irq_portWrite_ctrl (s : State) (v : Word) :
    (s.portWrite 0x003 v).irq = (v.getLsbD 0 && (s.status.done && !v.getLsbD 1)) := by
  rw [portWrite_ctrl, State.irq, State.writeCtrl_ie, State.writeCtrl_status, Status.ctrlCleared]

/-- Settles O14: a completion sets DONE; acceptance, CLR_DONE and reset clear it; IE masks it. -/
theorem irqFollowsCompletion : Obligations.IrqFollowsCompletion := by
  refine ⟨fun i s t h => ?exec, fun s w hb hr => ?step, fun s v hb => ?accept, fun s v h1 => ?clear,
    fun s v h0 => ?mask, fun s v h0 h1 => ?enable, rfl⟩
  case exec =>
    obtain ⟨u, hu, hirq⟩ := (exec_completes i s).exists_irq
    obtain rfl : t = u := Host.Outcome.next.inj (h.symm.trans hu)
    exact hirq
  case step =>
    rw [step_of_ready hb hr]
    exact coreStep_exists_irq s w
  case accept =>
    rw [portWrite_cmd_of_idle s v hb]
    exact Bool.and_false s.ie
  case clear => rw [irq_portWrite_ctrl, h1, Bool.not_true, Bool.and_false, Bool.and_false]
  case mask => rw [irq_portWrite_ctrl, h0, Bool.false_and]
  case enable => rw [irq_portWrite_ctrl, h0, h1, Bool.true_and, Bool.not_false, Bool.and_true]

end Sys2Proof.Machine

/-! ### Writes to a busy core -/

namespace Sys2Proof.Machine

/-- While busy, a write that needs an idle core only sets COLL. -/
theorem whenIdle_of_busy (s t : State) (hb : s.busy.isSome = true) : s.whenIdle t = s.collide := if_pos hb

/-- The writes that need an idle core are those to CMD, BDIM0, G0 to G7 and BANK0 (70_reset_and_hazards.md R462). -/
theorem portWrite_eq_whenIdle (s : State) (i : BitVec 12) (v : Word) (h : refusedWhenBusy i.toNat) :
    ∃ t, s.portWrite i v = s.whenIdle t := by
  unfold State.portWrite
  rcases h with hcmd | hbdim | ⟨hlo, hhi⟩ | ⟨hlo, hhi⟩
  · rw [portWord_cmd i hcmd]
    exact ⟨_, rfl⟩
  · rw [portWord_bdim i 0 hbdim]
    exact ⟨_, rfl⟩
  · rw [portWord_g i ⟨i.toNat - 0x010, by omega⟩ (by dsimp only; omega)]
    exact ⟨_, rfl⟩
  · rw [portWord_bank i 0 ⟨i.toNat - 0x100, by omega⟩ (by simp only [Fin.val_zero]; omega)]
    exact ⟨_, rfl⟩

/-- Settles O8: a refused write collides; the writes to CTRL and to the words never written are the same busy or idle. -/
theorem busyWritesAreRefused : Obligations.BusyWritesAreRefused := by
  intro s i v hb
  refine ⟨fun h => ?refused, fun h => ?ctrl, fun h => ?ignored⟩
  case refused =>
    obtain ⟨t, ht⟩ := portWrite_eq_whenIdle s i v h
    rw [ht]
    exact whenIdle_of_busy s t hb
  case ctrl =>
    obtain rfl : i = 0x003 := BitVec.eq_of_toNat_eq h
    exact portWrite_ctrl s v
  case ignored =>
    rcases h with hreserved | hreadOnly
    · exact portWrite_reserved s i v (portWord_reserved i hreserved)
    · exact portWrite_readOnly s i v hreadOnly

end Sys2Proof.Machine

/-! ### Reset -/

namespace Sys2Proof.Machine

@[simp] theorem atReset_reg (n : Nat) (r : Reg) : (State.atReset n).reg r = 0 := by simp [State.reg, State.atReset]

@[simp] theorem atReset_dim (n : Nat) (b : Fin 4) : (State.atReset n).dim b = { rows := 0, cols := 0 } := by
  simp [State.dim, State.atReset]

/-- STATUS reads 0 after reset (10_state.md R90). -/
@[simp] theorem atReset_statusWord (n : Nat) : (State.atReset n).statusWord = 0 := by
  simp [State.statusWord, State.atReset, FieldCtx.invalid]

/-- An assertion of reset that heads the list is the step of any core that does not complete first. -/
theorem step_reset (s : State) (rest : List HostOp) (h : HostActs s) (hp : s.pending = .reset :: rest) :
    step s = .next (s.hostTurn rest).assertReset := by
  rw [step_of_pending s _ rest h hp]
  rfl

/-- Settles O18: asserted reset leaves the state of the reset table, with what the host has still to do. -/
theorem resetInputRestoresTable : Obligations.ResetInputRestoresTable := by
  intro s rest hp hacts
  have hdims (b : Fin 4) : ((State.atReset s.draws).dim b).rows = 0 ∧ ((State.atReset s.draws).dim b).cols = 0 := by
    rw [atReset_dim]
    exact ⟨rfl, rfl⟩
  exact ⟨_, step_reset s rest hacts hp, rfl, rfl, rfl, atReset_statusWord s.draws, rfl, atReset_reg s.draws,
    rfl, hdims, rfl, rfl, rfl, rfl⟩

end Sys2Proof.Machine

/-! ### An accepted command completes

Each action of the host on a busy core takes one off the latency, so that the core's own step comes after at most `delay`
of them (70_reset_and_hazards.md R470). -/

namespace Sys2Proof.Machine

/-- `t` is idle with DONE set and one completion more than `n` counted (60_exceptions.md R410, R411). -/
def Counted (n : Word) (t : State) : Prop := t.busy = none ∧ t.cmdCount = n + 1 ∧ t.status.done = true

theorem Completes.exists_counted {op : BitVec 8} {s : State} {r : Result} (h : Completes op s r) :
    ∃ t, r = .next t ∧ Counted s.cmdCount t := by
  obtain ⟨t, ht, _, _, _, _, _, ⟨_, hbusy, hcount, hdone, _⟩ | ⟨_, ⟨hbusy, hcount, hdone, _⟩, _⟩⟩ := h
  · exact ⟨t, ht, hbusy, hcount, hdone⟩
  · exact ⟨t, ht, hbusy, hcount, hdone⟩

/-- The core's own step is a completion, whether its word is a command or illegal. -/
theorem coreStep_exists_counted (s : State) (w : Word) : ∃ t, s.coreStep w = .next t ∧ Counted s.cmdCount t := by
  rcases coreStep_cases s w with ⟨i, _, he⟩ | ⟨_, he⟩ <;> rw [he]
  · exact (exec_completes i s).exists_counted
  · exact (completes_error s _ .eill).exists_counted

/-- `s` holds `w`, has counted `n` completions and has `d` host actions left before its own step, and its host makes only
port accesses. -/
def Awaits (w n : Word) (d : Nat) (s : State) : Prop :=
  s.busy = some w ∧ s.cmdCount = n ∧ s.delay = d ∧ PortOnly s.pending

section
variable {w n : Word} {d : Nat} {s : State}

/-- The taking of a host action counts down. -/
theorem Awaits.hostTurn {ops : List HostOp} (h : Awaits w n (d + 1) s) (hops : PortOnly ops) :
    Awaits w n d (s.hostTurn ops) := by
  obtain ⟨hb, hn, hd, _⟩ := h
  exact ⟨hb, hn, by simp [State.hostTurn, hb, hd], hops⟩

theorem Awaits.reply (h : Awaits w n d s) (r : HostReply) : Awaits w n d (s.reply r) := h

/-- A read may use up a draw, which no part of the wait is. -/
theorem Awaits.afterRead (h : Awaits w n d s) (i : BitVec 12) : Awaits w n d (s.afterRead i) := by
  rcases afterRead_cases s i with he | he <;> rw [he] <;> exact h

/-- While busy a write is ignored, is a CTRL write, or collides: none touches the held command. -/
theorem Awaits.portWrite (h : Awaits w n d s) (i : BitVec 12) (v : Word) : Awaits w n d (s.portWrite i v) := by
  have ⟨hb, _⟩ := h
  rcases portWrite_cases s i v with he | he | ⟨_, he⟩ | ⟨hidle, _⟩
  · rw [he]; exact h
  · rw [he]; exact h
  · rw [he]; exact h
  · cases hidle.symm.trans hb

/-- Every port access on a core that is not ready takes one off the latency and keeps the command waiting. -/
theorem Awaits.exists_step (h : Awaits w n (d + 1) s) (hp : s.pending ≠ []) :
    ∃ t, step s = .next t ∧ Awaits w n d t := by
  have ⟨hb, _, hd, hport⟩ := h
  have hacts : HostActs s := .inr (by simp [Ready, hd, hp])
  cases hpending : s.pending with
  | nil => exact absurd hpending hp
  | cons op rest =>
    rw [hpending] at hport
    have hrest : PortOnly rest := fun o ho => hport o (List.mem_cons_of_mem _ ho)
    rcases hport op List.mem_cons_self with ⟨i, rfl⟩ | ⟨i, v, rfl⟩ | rfl
    · exact ⟨_, step_read s i rest hacts hpending, ((h.hostTurn hrest).afterRead i).reply _⟩
    · exact ⟨_, step_write s i v rest hacts hpending, (h.hostTurn hrest).portWrite i v⟩
    · refine ⟨_, step_wait s rest hacts hpending, (h.hostTurn ?_).reply _⟩
      rwa [hb]

theorem run_succ_of_step {t : State} (h : step s = .next t) (k : Nat) :
    Host.Core.run Sys2Proof.core (k + 1) s = Host.Core.run Sys2Proof.core k t := by
  have hcore : Sys2Proof.core.step s = .next t := h
  simp only [Host.Core.run, hcore]

/-- A ready core is one step from its completion. -/
theorem Awaits.run_of_ready (h : Awaits w n d s) (hr : Ready s) :
    ∃ t, Host.Core.run Sys2Proof.core 1 s = .next t ∧ Counted n t := by
  obtain ⟨hb, rfl, _, _⟩ := h
  obtain ⟨t, ht, hcounted⟩ := coreStep_exists_counted s w
  exact ⟨t, run_succ_of_step ((step_of_ready hb hr).trans ht) 0, hcounted⟩

end

/-- By induction on the latency: either the core is ready, or a port access leaves one less. -/
theorem Awaits.exists_run {w n : Word} {d : Nat} {s : State} (h : Awaits w n d s) :
    ∃ k t, k ≤ d + 1 ∧ Host.Core.run Sys2Proof.core k s = .next t ∧ Counted n t := by
  induction d generalizing s with
  | zero =>
    have ⟨_, _, hd, _⟩ := h
    obtain ⟨t, hrun, hcounted⟩ := h.run_of_ready (.inl hd)
    exact ⟨1, t, le_rfl, hrun, hcounted⟩
  | succ d ih =>
    by_cases hp : s.pending = []
    · obtain ⟨t, hrun, hcounted⟩ := h.run_of_ready (.inr hp)
      exact ⟨1, t, by omega, hrun, hcounted⟩
    · obtain ⟨u, hstep, hu⟩ := h.exists_step hp
      obtain ⟨k, t, hk, hrun, hcounted⟩ := ih hu
      exact ⟨k + 1, t, by omega, (run_succ_of_step hstep k).trans hrun, hcounted⟩

/-- Settles O15: the held command awaits its completion with `delay` host actions left. -/
theorem busyCommandCompletes : Obligations.BusyCommandCompletes := by
  intro s w hb hport
  have hawaits : Awaits w s.cmdCount s.delay s := ⟨hb, rfl, rfl, hport⟩
  exact hawaits.exists_run

end Sys2Proof.Machine
